-- ==== Sys2Proof/Word.lean ====
section
/-! DEFINITION. The two sizes of datum the CPU moves (spec/00_scope.md R7, R8, R11): a byte of 8 bits and a
word of 16 bits, bit 0 the least significant, all arithmetic modulo 2^16. -/

namespace Sys2Proof

/-- A byte: what `ld8` and `str8` move, and what one memory address holds (R11, R50). -/
abbrev Byte := BitVec 8

/-- A word: what a register holds, an address, an instruction, a port's datum (R5, R11). -/
abbrev Word := BitVec 16

end Sys2Proof
end

