-- ==== Sys2Proof/Config.lean ====
section
/-! DEFINITION. The parameters the source leaves open (spec/00_scope.md R6), each a field of `Config`, and the one
free value of the model. The values this row runs with stand in Machine/Params.lean; `State` carries the whole
record in a field no step writes, so a statement about every state is a statement about every configuration. -/

namespace Sys2Proof

/-- `PC_AHEAD` (R6, R23; 92_eei_decisions.md D1): how far ahead of the executing instruction r14 reads. -/
inductive PcAhead where
  | two
  | four
  | eight
  deriving DecidableEq, Repr

/-- The number of bytes a `PcAhead` stands for. -/
def PcAhead.bytes : PcAhead → Nat
  | .two => 2
  | .four => 4
  | .eight => 8

/-- `BYTE_ORDER` (R6, R52, R54): `big` puts bits 15:8 at the lower address. -/
inductive ByteOrder where
  | big
  | little
  deriving DecidableEq, Repr

/-- `MISALIGNED_POLICY` (R6, R27, R55; D3, D5): what a 16-bit access or a fetch at an odd address does. The spec admits
one value, the model fault; splitting the access, dropping bit 0 and a hardware exception it rules out (R55). -/
inductive MisalignedPolicy where
  | fault
  deriving DecidableEq, Repr

/-- `LD8_EXTEND` (R6, R121, D6): what bits 15:8 of rD become after `ld8`. -/
inductive Ld8Extend where
  | zero
  | sign
  | keep
  deriving DecidableEq, Repr

/-- `NEG_CARRY` (R6, R167, D15): C after `neg` is the borrow of 0 - rA, or the carry of the addition (~rA) + 1. -/
inductive NegCarry where
  | borrow
  | adder
  deriving DecidableEq, Repr

/-- `SHIFT_COUNT_BITS` (R6, R136, D16): how many low bits of rB count in a register shift. -/
inductive ShiftCountBits where
  | four
  | five
  | sixteen
  deriving DecidableEq, Repr

/-- `SHIFT0_CARRY` (R6, R136, D16): C after a register shift by a count of 0. -/
inductive Shift0Carry where
  | clear
  | unchanged
  deriving DecidableEq, Repr

/-- `SR_WRITE_ORDER` (R6, R130, D17): which of the two writes to SR comes last when a flag-writing instruction
names r15 as its destination. -/
inductive SrWriteOrder where
  | resultThenFlags
  | flagsThenResult
  deriving DecidableEq, Repr

/-- `VECTOR_MODE` (R6, R217, D21): a table of handler addresses at VBR, or handlers in line every `stride` bytes. -/
inductive VectorMode where
  | table
  | direct (stride : Word)
  deriving DecidableEq, Repr

/-- `INVALID_EPC` (R6, R212, D22): the return address an invalid instruction saves, A + 2 or A. -/
inductive InvalidEpc where
  | next
  | self
  deriving DecidableEq, Repr

/-- `IRQ_PRIORITY` (R6, R223, D23): which interrupt wins when both are requested and enabled. -/
inductive IrqPriority where
  | int0First
  | int1First
  deriving DecidableEq, Repr

/-- What `MEMMAP` makes of an address (R56). -/
inductive RegionKind where
  | rom
  | ram
  | unmapped
  deriving DecidableEq, Repr

/-- One run of addresses of one kind: `size` addresses from `base` on. -/
structure Region where
  base : Nat
  size : Nat
  kind : RegionKind
  deriving DecidableEq, Repr

/-- What a second-level code the source leaves free can stand for (R87): one of the eight instructions with a code of
their own, the code `lsli` and `lsri` share, or the escape to the third level. -/
inductive Enc2Row where
  | inp
  | out
  | ini
  | outi
  | addi
  | andi
  | ori
  | shift
  | cmpi
  | escape
  deriving DecidableEq, Repr

/-- The ten rows, in the order of R87. -/
def Enc2Row.all : List Enc2Row := [.inp, .out, .ini, .outi, .addi, .andi, .ori, .shift, .cmpi, .escape]

/-- What a third-level code can stand for (R88): one of the thirteen one-operand instructions, or one of the three
groups of invalid words left over, named after the codes they have in the spec's own table (R93). -/
inductive Enc1Row where
  | reti
  | trap
  | trapi
  | getepc
  | setepc
  | getesr
  | setesr
  | geteur
  | seteur
  | getenum
  | setenum
  | getvbr
  | setvbr
  | unassignedD
  | unassignedE
  | unassignedF
  deriving DecidableEq, Repr

/-- The sixteen rows, in the order of R88. -/
def Enc1Row.all : List Enc1Row :=
  [.reti, .trap, .trapi, .getepc, .setepc, .getesr, .setesr, .geteur, .seteur, .getenum, .setenum, .getvbr, .setvbr,
    .unassignedD, .unassignedE, .unassignedF]

/-- The named parameters of R6. `enc2` is the open part of `ENC2`, what the codes 0x6 to 0xF of bits 7:4 stand for in
this order, with `lsriBit`, the value of bit 11 that makes the shared code `lsri` (R87); the codes 0x0 to 0x5 are the
source's own and no parameter (R84). `enc1` is `ENC1`, what the codes 0x0 to 0xF of bits 11:8 stand for (R88). `memMap` is `MEMMAP`: an address belongs to the first region that holds it, and is
unmapped where none does (R56). `serialPresent` and `serialPort` are `SERIAL_PRESENT` and `SERIAL_PORT` (R67, R240);
`IOMAP` is the environment's answers, held in `State`. -/
structure Config where
  pcAhead : PcAhead
  byteOrder : ByteOrder
  misalignedPolicy : MisalignedPolicy
  ld8Extend : Ld8Extend
  negCarry : NegCarry
  shiftCountBits : ShiftCountBits
  shift0Carry : Shift0Carry
  srWriteOrder : SrWriteOrder
  vecInt0 : Word
  vecInt1 : Word
  vecInvalid : Word
  vectorMode : VectorMode
  invalidEpc : InvalidEpc
  irqPriority : IrqPriority
  resetPc : Word
  resetSr : Word
  memMap : List Region
  serialPresent : Bool
  serialPort : Word
  enc2 : Vector Enc2Row 10
  lsriBit : Bool
  enc1 : Vector Enc1Row 16
  deriving DecidableEq, Repr

/-- "The three parameters must be distinct from each other" (R211): the numbers of the hardware causes. -/
def Config.numbersDistinct (c : Config) : Bool :=
  c.vecInt0 ≠ c.vecInt1 ∧ c.vecInt0 ≠ c.vecInvalid ∧ c.vecInt1 ≠ c.vecInvalid

/-- The two tables assign every row one code and no code two rows (R87, R88): what a replacement table must do for a
decoder to be "total on all 65536 words" (R96) and reach every instruction. -/
def Config.encodingsAssigned (c : Config) : Bool :=
  c.enc2.toList.isPerm Enc2Row.all && c.enc1.toList.isPerm Enc1Row.all

/-- FREE VALUE (log entry 2): the word the environment answers to an `IoRead` for which no answer is lined up in
`State.ioIn`, "a free draw under no law" (R67). The first argument counts the draws so far (`State.draws`), so two
reads of one port may differ; the second is the port. It has no body: nothing can be proved of its value. -/
opaque Config.ioDraw : Nat → Word → Word

end Sys2Proof
end

