-- ==== Sys2Proof/Machine/Bytes.lean ====
section
/-! DEFINITION. How the two bytes of a 16-bit access make a word, and back (spec/20_memory.md R52, R54): the one place
where the byte order is decided, for data, for instruction fetch and for the vector fetch alike (R57, R217). -/

namespace Sys2Proof.Machine

/-- The word whose byte at the lower address is `lower` and at the next address `upper` (R52). -/
def joinBytes (order : ByteOrder) (lower upper : Byte) : Word :=
  match order with
  | .big => lower ++ upper
  | .little => upper ++ lower

/-- Bits 15:8 of a word. -/
def highByte (w : Word) : Byte := w.extractLsb' 8 8

/-- Bits 7:0 of a word. -/
def lowByte (w : Word) : Byte := w.extractLsb' 0 8

/-- The byte of `w` that lies at the lower address (R54). -/
def lowerByte (order : ByteOrder) (w : Word) : Byte :=
  match order with
  | .big => highByte w
  | .little => lowByte w

/-- The byte of `w` that lies at the next address (R54). -/
def upperByte (order : ByteOrder) (w : Word) : Byte :=
  match order with
  | .big => lowByte w
  | .little => highByte w

end Sys2Proof.Machine
end

