-- ==== Sys2Proof/Machine/Params.lean ====
section
/-! DEFINITION. The values of the open parameters that `State.reset` carries: the column "value used here" of
spec/00_scope.md R6. Log entries 3 to 20 say of each what the source leaves open. -/

namespace Sys2Proof.Machine

/-- `MEMMAP`, value used: the 48 KB of cartridge ROM at 0x0000 to 0xBFFF (R56, R241). That 0xC000 to 0xFFFF is RAM is
the assumption of the spec's own test programs (R241, D10). DESIGN CHOICE, log entry 15. -/
def defaultMemMap : List Region :=
  [{ base := 0x0000, size := 0xC000, kind := .rom }, { base := 0xC000, size := 0x4000, kind := .ram }]

/-- `ENC2`, the rows of R87 from 0x6 on (D11). DESIGN CHOICE, log entry 19. -/
def defaultEnc2 : Vector Enc2Row 10 := #v[.inp, .out, .ini, .outi, .addi, .andi, .ori, .shift, .cmpi, .escape]

/-- `ENC1`, the rows of R88 from 0x0 on (D12, D13). DESIGN CHOICE, log entries 19 and 20. -/
def defaultEnc1 : Vector Enc1Row 16 :=
  #v[.reti, .trap, .trapi, .getepc, .setepc, .getesr, .setesr, .geteur, .seteur, .getenum, .setenum, .getvbr, .setvbr,
    .unassignedD, .unassignedE, .unassignedF]

/-- The parameter values of R6. DESIGN CHOICE for every one of them (log entries 3 to 20): no source confirms any. -/
def defaultConfig : Config where
  pcAhead := .four
  byteOrder := .big
  misalignedPolicy := .fault
  ld8Extend := .zero
  negCarry := .borrow
  shiftCountBits := .sixteen
  shift0Carry := .clear
  srWriteOrder := .resultThenFlags
  vecInt0 := 0
  vecInt1 := 1
  vecInvalid := 2
  vectorMode := .table
  invalidEpc := .next
  irqPriority := .int0First
  resetPc := 0x0000
  resetSr := 0x0000
  memMap := defaultMemMap
  serialPresent := true
  serialPort := 0
  enc2 := defaultEnc2
  lsriBit := true
  enc1 := defaultEnc1

end Sys2Proof.Machine
end

