-- ==== Sys2Proof/Syntax.lean ====
section
/-! DEFINITION. The instructions, at the level of the source's own operand lists (spec/30_encoding.md R87 to R89,
R97): one constructor per row of spec/opcode_table.json. Operands stand in the order of the assembler's form,
destination last. An immediate is the number the source speaks of (R100), not the field that encodes it. -/

namespace Sys2Proof

/-- A main register: r0 to r13, which have no fixed function, r14 the program counter, r15 the status register
(R20, R21). -/
inductive Reg where
  | gpr (i : Fin 14)
  | pc
  | sr
  deriving DecidableEq, Repr

/-- The instructions: 53 mnemonics (R89, R87, R88, R151) and the nine groups of invalid words (R93), each of which
carries the bits its encoding leaves free. `inp` is the mnemonic `in`, a word Lean reserves. -/
inductive Instr where
  | ldim (im : Int) (rD : Reg)
  | ldimh (im : Nat) (rD : Reg)
  | ld8 (rA rB rD : Reg)
  | ld16 (rA rB rD : Reg)
  | str8 (rA rB rD : Reg)
  | str16 (rA rB rD : Reg)
  | add (rA rB rD : Reg)
  | adc (rA rB rD : Reg)
  | and (rA rB rD : Reg)
  | or (rA rB rD : Reg)
  | xor (rA rB rD : Reg)
  | lsl (rA rB rD : Reg)
  | lsr (rA rB rD : Reg)
  | asr (rA rB rD : Reg)
  | bra (off : Int)
  | brf (off : Int)
  | beq (off : Int)
  | bne (off : Int)
  | bmi (off : Int)
  | bpl (off : Int)
  | bcs (off : Int)
  | bcc (off : Int)
  | bgr (off : Int)
  | ble (off : Int)
  | mov (rA rD : Reg)
  | neg (rA rD : Reg)
  | not (rA rD : Reg)
  | cmp (rA rD : Reg)
  | call (rA rD : Reg)
  | swap (rA rD : Reg)
  | inp (rA rD : Reg)
  | out (rA rD : Reg)
  | ini (im : Nat) (rD : Reg)
  | outi (im : Nat) (rD : Reg)
  | addi (im : Int) (rD : Reg)
  | andi (im : Int) (rD : Reg)
  | ori (im : Int) (rD : Reg)
  | lsli (im : Nat) (rD : Reg)
  | lsri (im : Nat) (rD : Reg)
  | cmpi (im : Int) (rD : Reg)
  | reti (rD : Reg)
  | trap (rD : Reg)
  | trapi (im : Nat)
  | getepc (rD : Reg)
  | setepc (rD : Reg)
  | getesr (rD : Reg)
  | setesr (rD : Reg)
  | geteur (rD : Reg)
  | seteur (rD : Reg)
  | getenum (rD : Reg)
  | setenum (rD : Reg)
  | getvbr (rD : Reg)
  | setvbr (rD : Reg)
  | invalidCc10 (off8 : BitVec 8)
  | invalidCc11 (off8 : BitVec 8)
  | invalidCc12 (off8 : BitVec 8)
  | invalidCc13 (off8 : BitVec 8)
  | invalidCc14 (off8 : BitVec 8)
  | invalidCc15 (off8 : BitVec 8)
  | invalidSub1D (top : BitVec 4)
  | invalidSub1E (top : BitVec 4)
  | invalidSub1F (top : BitVec 4)
  deriving DecidableEq, Repr

end Sys2Proof
end

