-- ==== Sys2Proof/WellFormed.lean ====
section
/-! DEFINITION. Which instructions the encoding admits: the immediate ranges an assembler must enforce
(spec/30_encoding.md R100). Registers and the free bits of the invalid words are in range by their types. -/

namespace Sys2Proof

/-- The 8-bit signed immediates: of `ldim`, and of a branch in instructions (R90, R100). -/
def signed8 (im : Int) : Bool := -128 ≤ im ∧ im ≤ 127

/-- The immediates of `addi`, `andi`, `ori`: "-8 to -1 or 1 to 8" (R91, R100); 0 cannot be encoded. -/
def signed4NoZero (im : Int) : Bool := (-8 ≤ im ∧ im ≤ -1) ∨ (1 ≤ im ∧ im ≤ 8)

/-- The immediates of `cmpi`: "-8 to 7" (R92, R100). -/
def signed4 (im : Int) : Bool := -8 ≤ im ∧ im ≤ 7

/-- The immediates of `lsli` and `lsri`: "1 to 8" (R92, R100). -/
def shiftImm (im : Nat) : Bool := 1 ≤ im ∧ im ≤ 8

/-- The immediates of `ini`, `outi` ("0 to 15") and `trapi` (R92, R100). -/
def unsigned4 (im : Nat) : Bool := im ≤ 15

/-- The immediates of `ldimh` (R100): 0 to 255. -/
def unsigned8 (im : Nat) : Bool := im ≤ 255

/-- The instruction's immediate lies in the range R100 gives for it. -/
def Instr.wf : Instr → Bool
  | .ldim im _ => signed8 im
  | .ldimh im _ => unsigned8 im
  | .bra off | .brf off | .beq off | .bne off | .bmi off => signed8 off
  | .bpl off | .bcs off | .bcc off | .bgr off | .ble off => signed8 off
  | .ini im _ | .outi im _ | .trapi im => unsigned4 im
  | .addi im _ | .andi im _ | .ori im _ => signed4NoZero im
  | .lsli im _ | .lsri im _ => shiftImm im
  | .cmpi im _ => signed4 im
  | .ld8 .. | .ld16 .. | .str8 .. | .str16 .. | .add .. | .adc .. | .and .. | .or .. | .xor .. | .lsl .. | .lsr ..
  | .asr .. | .mov .. | .neg .. | .not .. | .cmp .. | .call .. | .swap .. | .inp .. | .out .. | .reti .. | .trap ..
  | .getepc .. | .setepc .. | .getesr .. | .setesr .. | .geteur .. | .seteur .. | .getenum .. | .setenum ..
  | .getvbr .. | .setvbr .. | .invalidCc10 .. | .invalidCc11 .. | .invalidCc12 .. | .invalidCc13 ..
  | .invalidCc14 .. | .invalidCc15 .. | .invalidSub1D .. | .invalidSub1E .. | .invalidSub1F .. => true

end Sys2Proof
end

