-- ==== Sys2Proof/Decode.lean ====
section
/-! DEFINITION. The decoder (spec/30_encoding.md R80 to R96) and, after it, the encoder written from the same tables.
The numbers of the 23 instructions the source gives no encoding for stand in the tables `ENC2` and `ENC1` of `Config`,
each replaceable as a whole (R87, R88; log entry 19); decoder and encoder look them up there. -/

namespace Sys2Proof

/-- The register a 4-bit register field names (R20). -/
def regOfNibble (n : BitVec 4) : Reg :=
  if h : n.toNat < 14 then .gpr ⟨n.toNat, h⟩ else if n = 14#4 then .pc else .sr

/-- The operand of `addi`, `andi`, `ori` (R91): field 0 is 8, every other field its two's complement value. -/
def immAOfField (n : BitVec 4) : Int := if n = 0#4 then 8 else n.toInt

/-- The count of `lsli` and `lsri` (R92): field 0 is 8. -/
def countOfField (n : BitVec 3) : Nat := if n = 0#3 then 8 else n.toNat

/-- Format B (R83, R151, R162): the condition in bits 15:12 with the offset in bits 11:4. -/
def decodeBranch (cc : BitVec 4) (off8 : BitVec 8) : Instr :=
  match cc.toNat with
  | 0 => .bra off8.toInt
  | 1 => .brf off8.toInt
  | 2 => .beq off8.toInt
  | 3 => .bne off8.toInt
  | 4 => .bmi off8.toInt
  | 5 => .bpl off8.toInt
  | 6 => .bcs off8.toInt
  | 7 => .bcc off8.toInt
  | 8 => .bgr off8.toInt
  | 9 => .ble off8.toInt
  | 10 => .invalidCc10 off8
  | 11 => .invalidCc11 off8
  | 12 => .invalidCc12 off8
  | 13 => .invalidCc13 off8
  | 14 => .invalidCc14 off8
  | _ => .invalidCc15 off8

/-- What the code `sub2` of bits 7:4 stands for in the open part of `ENC2`, 0x6 being the first row (R87). -/
def Config.enc2At (cfg : Config) (k : Nat) : Enc2Row := cfg.enc2.toList.getD k .escape

/-- What the code `k` of bits 11:8 stands for in `ENC1` (R88). -/
def Config.enc1At (cfg : Config) (k : Nat) : Enc1Row := cfg.enc1.toList.getD k .unassignedF

/-- The third level (R88): `sub1` in bits 11:8, looked up in `ENC1`, the operand in bits 15:12. -/
def decodeSub1 (cfg : Config) (sub1 top : BitVec 4) : Instr :=
  match cfg.enc1At sub1.toNat with
  | .reti => .reti (regOfNibble top)
  | .trap => .trap (regOfNibble top)
  | .trapi => .trapi top.toNat
  | .getepc => .getepc (regOfNibble top)
  | .setepc => .setepc (regOfNibble top)
  | .getesr => .getesr (regOfNibble top)
  | .setesr => .setesr (regOfNibble top)
  | .geteur => .geteur (regOfNibble top)
  | .seteur => .seteur (regOfNibble top)
  | .getenum => .getenum (regOfNibble top)
  | .setenum => .setenum (regOfNibble top)
  | .getvbr => .getvbr (regOfNibble top)
  | .setvbr => .setvbr (regOfNibble top)
  | .unassignedD => .invalidSub1D top
  | .unassignedE => .invalidSub1E top
  | .unassignedF => .invalidSub1F top

/-- The instruction of a row of `ENC2` (R85, R87): rA or an immediate in bits 11:8, rD in bits 15:12; bit 11 tells the
immediate shifts apart. -/
def decodeEnc2 (cfg : Config) (row : Enc2Row) (mid top : BitVec 4) : Instr :=
  match row with
  | .inp => .inp (regOfNibble mid) (regOfNibble top)
  | .out => .out (regOfNibble mid) (regOfNibble top)
  | .ini => .ini mid.toNat (regOfNibble top)
  | .outi => .outi mid.toNat (regOfNibble top)
  | .addi => .addi (immAOfField mid) (regOfNibble top)
  | .andi => .andi (immAOfField mid) (regOfNibble top)
  | .ori => .ori (immAOfField mid) (regOfNibble top)
  | .shift =>
    if mid.msb = cfg.lsriBit then .lsri (countOfField (mid.extractLsb' 0 3)) (regOfNibble top)
    else .lsli (countOfField (mid.extractLsb' 0 3)) (regOfNibble top)
  | .cmpi => .cmpi mid.toInt (regOfNibble top)
  | .escape => decodeSub1 cfg mid top

/-- The second level, bits 3:0 = 0xF (R84, R87): `sub2` in bits 7:4, the source's own codes 0x0 to 0x5 and, from 0x6 on,
the table `ENC2`. -/
def decodeSub2 (cfg : Config) (sub2 mid top : BitVec 4) : Instr :=
  match sub2.toNat with
  | 0x0 => .mov (regOfNibble mid) (regOfNibble top)
  | 0x1 => .neg (regOfNibble mid) (regOfNibble top)
  | 0x2 => .not (regOfNibble mid) (regOfNibble top)
  | 0x3 => .cmp (regOfNibble mid) (regOfNibble top)
  | 0x4 => .call (regOfNibble mid) (regOfNibble top)
  | 0x5 => .swap (regOfNibble mid) (regOfNibble top)
  | k + 6 => decodeEnc2 cfg (cfg.enc2At k) mid top

/-- The instruction whose four nibbles are `n3` (bits 15:12) down to `n0` (bits 3:0), in the order of R96. -/
def decodeNibbles (cfg : Config) (n3 n2 n1 n0 : BitVec 4) : Instr :=
  match n0.toNat with
  | 0x0 => .ldim (n2 ++ n1).toInt (regOfNibble n3)
  | 0x1 => .ldimh (n2 ++ n1).toNat (regOfNibble n3)
  | 0x2 => .ld8 (regOfNibble n2) (regOfNibble n1) (regOfNibble n3)
  | 0x3 => .ld16 (regOfNibble n2) (regOfNibble n1) (regOfNibble n3)
  | 0x4 => .str8 (regOfNibble n2) (regOfNibble n1) (regOfNibble n3)
  | 0x5 => .str16 (regOfNibble n2) (regOfNibble n1) (regOfNibble n3)
  | 0x6 => .add (regOfNibble n2) (regOfNibble n1) (regOfNibble n3)
  | 0x7 => .adc (regOfNibble n2) (regOfNibble n1) (regOfNibble n3)
  | 0x8 => .and (regOfNibble n2) (regOfNibble n1) (regOfNibble n3)
  | 0x9 => .or (regOfNibble n2) (regOfNibble n1) (regOfNibble n3)
  | 0xA => .xor (regOfNibble n2) (regOfNibble n1) (regOfNibble n3)
  | 0xB => .lsl (regOfNibble n2) (regOfNibble n1) (regOfNibble n3)
  | 0xC => .lsr (regOfNibble n2) (regOfNibble n1) (regOfNibble n3)
  | 0xD => .asr (regOfNibble n2) (regOfNibble n1) (regOfNibble n3)
  | 0xE => decodeBranch n3 (n2 ++ n1)
  | _ => decodeSub2 cfg n1 n2 n3

/-- The nibble of `w` whose lowest bit is bit `lo`. -/
def nibbleAt (w : Word) (lo : Nat) : BitVec 4 := w.extractLsb' lo 4

/-- The instruction a word is under the tables of `cfg`: "total on all 65536 words" (R96). -/
def decodeWord (cfg : Config) (w : Word) : Instr :=
  decodeNibbles cfg (nibbleAt w 12) (nibbleAt w 8) (nibbleAt w 4) (nibbleAt w 0)

/-- Why a list of bytes is no instruction: every instruction is one 16-bit word (R80), so fewer than two bytes hold
none. No other list is refused. -/
inductive DecodeError where
  | truncated
  deriving DecidableEq, Repr

/-- The instruction at the head of a list of bytes, the first at the lowest address, and the rest of the list. -/
def decode (cfg : Config) : List Byte → Except DecodeError (Instr × List Byte)
  | lower :: upper :: rest => .ok (decodeWord cfg (Machine.joinBytes cfg.byteOrder lower upper), rest)
  | _ => .error .truncated

/-- The instruction the decoder reads from an instruction whose bits are `w`: one word, under the byte order and
the tables of the default configuration. -/
def decodeTableWord (nbits w : Nat) : Option Instr :=
  let word := BitVec.ofNat 16 (w % 2 ^ nbits)
  let order := Machine.defaultConfig.byteOrder
  match decode Machine.defaultConfig [Machine.lowerByte order word, Machine.upperByte order word] with
  | .ok (i, _) => some i
  | .error _ => none

/-- The 4-bit field that names a register (R20). -/
def nibbleOfReg : Reg → BitVec 4
  | .gpr i => BitVec.ofNat 4 i.val
  | .pc => 14#4
  | .sr => 15#4

/-- The field of an immediate of `addi`, `andi`, `ori`: "A value of 0 is used to indicate 8" (R91). -/
def fieldOfImmA (im : Int) : BitVec 4 := if im = 8 then 0#4 else BitVec.ofInt 4 im

/-- The 3-bit field of a shift count, 0 for 8 (R92). -/
def fieldOfCount (n : Nat) : BitVec 3 := BitVec.ofNat 3 n

/-- Formats I8 and B (R81, R83): four bits, eight bits, the primary opcode. -/
def packI8 (top : BitVec 4) (imm8 : BitVec 8) (op : BitVec 4) : Word := top ++ imm8 ++ op

/-- Formats R3, R2, I4 and R1 (R82, R84 to R86): four nibbles. -/
def packNibbles (n3 n2 n1 n0 : BitVec 4) : Word := n3 ++ n2 ++ n1 ++ n0

/-- Format B for a branch whose condition is `cc` (R83). -/
def packBranch (cc : BitVec 4) (off : Int) : Word := packI8 cc (BitVec.ofInt 8 off) 0xE#4

/-- Format R3 (R82). -/
def packR3 (rA rB rD : Reg) (op : BitVec 4) : Word :=
  packNibbles (nibbleOfReg rD) (nibbleOfReg rA) (nibbleOfReg rB) op

/-- Format R2 (R84), and `in`, `out` (R85). -/
def packR2 (rA rD : Reg) (sub2 : BitVec 4) : Word := packNibbles (nibbleOfReg rD) (nibbleOfReg rA) sub2 0xF#4

/-- Format I4 (R85). -/
def packI4 (im4 : BitVec 4) (rD : Reg) (sub2 : BitVec 4) : Word := packNibbles (nibbleOfReg rD) im4 sub2 0xF#4

/-- The code of a row of `ENC2` in bits 7:4 (R87). -/
def Config.code2 (cfg : Config) (row : Enc2Row) : BitVec 4 := BitVec.ofNat 4 (6 + cfg.enc2.toList.idxOf row)

/-- The code of a row of `ENC1` in bits 11:8 (R88). -/
def Config.code1 (cfg : Config) (row : Enc1Row) : BitVec 4 := BitVec.ofNat 4 (cfg.enc1.toList.idxOf row)

/-- Format R1 (R86). -/
def packR1 (cfg : Config) (top : BitVec 4) (row : Enc1Row) : Word :=
  packNibbles top (cfg.code1 row) (cfg.code2 .escape) 0xF#4

/-- The immediate shifts (R92): bit 11 tells them apart, bits 10:8 hold the count. -/
def packShift (cfg : Config) (dir : Bool) (im : Nat) (rD : Reg) : Word :=
  packI4 (BitVec.ofBool dir ++ fieldOfCount im) rD (cfg.code2 .shift)

/-- The word of an instruction whose immediate is in range (R81 to R92), under the tables of `cfg`. -/
def encode (cfg : Config) : Instr → Word
  | .ldim im rD => packI8 (nibbleOfReg rD) (BitVec.ofInt 8 im) 0x0#4
  | .ldimh im rD => packI8 (nibbleOfReg rD) (BitVec.ofNat 8 im) 0x1#4
  | .ld8 rA rB rD => packR3 rA rB rD 0x2#4
  | .ld16 rA rB rD => packR3 rA rB rD 0x3#4
  | .str8 rA rB rD => packR3 rA rB rD 0x4#4
  | .str16 rA rB rD => packR3 rA rB rD 0x5#4
  | .add rA rB rD => packR3 rA rB rD 0x6#4
  | .adc rA rB rD => packR3 rA rB rD 0x7#4
  | .and rA rB rD => packR3 rA rB rD 0x8#4
  | .or rA rB rD => packR3 rA rB rD 0x9#4
  | .xor rA rB rD => packR3 rA rB rD 0xA#4
  | .lsl rA rB rD => packR3 rA rB rD 0xB#4
  | .lsr rA rB rD => packR3 rA rB rD 0xC#4
  | .asr rA rB rD => packR3 rA rB rD 0xD#4
  | .bra off => packBranch 0#4 off
  | .brf off => packBranch 1#4 off
  | .beq off => packBranch 2#4 off
  | .bne off => packBranch 3#4 off
  | .bmi off => packBranch 4#4 off
  | .bpl off => packBranch 5#4 off
  | .bcs off => packBranch 6#4 off
  | .bcc off => packBranch 7#4 off
  | .bgr off => packBranch 8#4 off
  | .ble off => packBranch 9#4 off
  | .mov rA rD => packR2 rA rD 0x0#4
  | .neg rA rD => packR2 rA rD 0x1#4
  | .not rA rD => packR2 rA rD 0x2#4
  | .cmp rA rD => packR2 rA rD 0x3#4
  | .call rA rD => packR2 rA rD 0x4#4
  | .swap rA rD => packR2 rA rD 0x5#4
  | .inp rA rD => packR2 rA rD (cfg.code2 .inp)
  | .out rA rD => packR2 rA rD (cfg.code2 .out)
  | .ini im rD => packI4 (BitVec.ofNat 4 im) rD (cfg.code2 .ini)
  | .outi im rD => packI4 (BitVec.ofNat 4 im) rD (cfg.code2 .outi)
  | .addi im rD => packI4 (fieldOfImmA im) rD (cfg.code2 .addi)
  | .andi im rD => packI4 (fieldOfImmA im) rD (cfg.code2 .andi)
  | .ori im rD => packI4 (fieldOfImmA im) rD (cfg.code2 .ori)
  | .lsli im rD => packShift cfg (!cfg.lsriBit) im rD
  | .lsri im rD => packShift cfg cfg.lsriBit im rD
  | .cmpi im rD => packI4 (BitVec.ofInt 4 im) rD (cfg.code2 .cmpi)
  | .reti rD => packR1 cfg (nibbleOfReg rD) .reti
  | .trap rD => packR1 cfg (nibbleOfReg rD) .trap
  | .trapi im => packR1 cfg (BitVec.ofNat 4 im) .trapi
  | .getepc rD => packR1 cfg (nibbleOfReg rD) .getepc
  | .setepc rD => packR1 cfg (nibbleOfReg rD) .setepc
  | .getesr rD => packR1 cfg (nibbleOfReg rD) .getesr
  | .setesr rD => packR1 cfg (nibbleOfReg rD) .setesr
  | .geteur rD => packR1 cfg (nibbleOfReg rD) .geteur
  | .seteur rD => packR1 cfg (nibbleOfReg rD) .seteur
  | .getenum rD => packR1 cfg (nibbleOfReg rD) .getenum
  | .setenum rD => packR1 cfg (nibbleOfReg rD) .setenum
  | .getvbr rD => packR1 cfg (nibbleOfReg rD) .getvbr
  | .setvbr rD => packR1 cfg (nibbleOfReg rD) .setvbr
  | .invalidCc10 off8 => packI8 10#4 off8 0xE#4
  | .invalidCc11 off8 => packI8 11#4 off8 0xE#4
  | .invalidCc12 off8 => packI8 12#4 off8 0xE#4
  | .invalidCc13 off8 => packI8 13#4 off8 0xE#4
  | .invalidCc14 off8 => packI8 14#4 off8 0xE#4
  | .invalidCc15 off8 => packI8 15#4 off8 0xE#4
  | .invalidSub1D top => packR1 cfg top .unassignedD
  | .invalidSub1E top => packR1 cfg top .unassignedE
  | .invalidSub1F top => packR1 cfg top .unassignedF

end Sys2Proof
end

