-- ==== Sys2Proof/Machine/Flags.lean ====
section
/-! DEFINITION. The status register's fields and every way an instruction computes them (spec/10_state.md R28 to R32):
carries, borrows, the shifts with the bit they shift out, and the update that leaves the other bits alone. -/

namespace Sys2Proof.Machine

/-- SR.N, bit 4 (R28). -/
def flagN (sr : Word) : Bool := sr.getLsbD 4

/-- SR.C, bit 3 (R28). -/
def flagC (sr : Word) : Bool := sr.getLsbD 3

/-- SR.Z, bit 2 (R28). -/
def flagZ (sr : Word) : Bool := sr.getLsbD 2

/-- SR.I1, bit 1 (R28): Interrupt 1 can be taken. -/
def enable1 (sr : Word) : Bool := sr.getLsbD 1

/-- SR.I0, bit 0 (R28): Interrupt 0 can be taken. -/
def enable0 (sr : Word) : Bool := sr.getLsbD 0

/-- `w` with bit `i` made `b` and no other bit changed. -/
def putBit (w : Word) (i : Nat) (b : Bool) : Word :=
  if b then w ||| (1#16 <<< i) else w &&& ~~~(1#16 <<< i)

/-- `setNZ(res)` (R9), and SR.C where the instruction writes it: `none` is "C = unmodified" (R30). -/
def updateFlags (c : Option Bool) (res : Word) (sr : Word) : Word :=
  let carried := match c with
    | some b => putBit sr 3 b
    | none => sr
  putBit (putBit carried 4 res.msb) 2 (res == 0#16)

/-- SR after exception entry: bits 1:0 cleared, bits 15:2 unchanged (R215). -/
def clearEnables (sr : Word) : Word := putBit (putBit sr 1 false) 0 false

/-- `sum17` of R131 and R132: the 16-bit sum and the carry out of bit 15. -/
def addWithCarry (a b : Word) (cin : Bool) : Word × Bool :=
  let sum17 : BitVec 17 := a.zeroExtend 17 + b.zeroExtend 17 + (BitVec.ofBool cin).zeroExtend 17
  (sum17.extractLsb' 0 16, sum17.getLsbD 16)

/-- C after `cmp` and `cmpi` (R169, R186): the borrow, 1 when the minuend is below the subtrahend, unsigned. -/
def borrowOf (minuend subtrahend : Word) : Bool := minuend.ult subtrahend

/-- C after `neg` (R167) under each reading `NEG_CARRY` admits. -/
def carryOfNeg (reading : NegCarry) (a : Word) : Bool :=
  match reading with
  | .borrow => a != 0#16
  | .adder => a == 0#16

/-- C after a shift by 0 (R136): cleared, or left as it is. -/
def carryOfShift0 (reading : Shift0Carry) : Option Bool :=
  match reading with
  | .clear => some false
  | .unchanged => none

/-- The count of a register shift: the low bits of rB that count (R136). -/
def shiftCount (bits : ShiftCountBits) (b : Word) : Nat :=
  match bits with
  | .four => b.toNat % 16
  | .five => b.toNat % 32
  | .sixteen => b.toNat

/-- `lsl` (R137): the result, and C, the last bit shifted out. -/
def shiftLeft (zeroCount : Shift0Carry) (a : Word) (n : Nat) : Word × Option Bool :=
  if n = 0 then (a, carryOfShift0 zeroCount)
  else if n ≤ 16 then (a <<< n, some (a.getLsbD (16 - n)))
  else (0#16, some false)

/-- `lsr` (R138): zeros enter at bit 15. -/
def shiftRight (zeroCount : Shift0Carry) (a : Word) (n : Nat) : Word × Option Bool :=
  if n = 0 then (a, carryOfShift0 zeroCount)
  else if n ≤ 16 then (a >>> n, some (a.getLsbD (n - 1)))
  else (0#16, some false)

/-- `asr` (R139): copies of bit 15 enter at bit 15. -/
def shiftRightArith (zeroCount : Shift0Carry) (a : Word) (n : Nat) : Word × Option Bool :=
  if n = 0 then (a, carryOfShift0 zeroCount)
  else if n ≤ 15 then (a.sshiftRight n, some (a.getLsbD (n - 1)))
  else (if a.msb then 0xFFFF#16 else 0#16, some a.msb)

end Sys2Proof.Machine
end

