-- ==== Sys2Proof/Machine/State.lean ====
section
/-! DEFINITION. Everything the spec gives the machine (spec/10_state.md R20 to R42), the environment's side of it
(R221, R242) and the reasons a step can stop. INVENTORY.md lists each field with its rule and its reset value. -/

namespace Sys2Proof.Machine

/-- Memory (R50): the bytes that hold a value, by address, in the canonical form `Memory.wf` of Ops.lean. -/
abbrev Memory := List Host.Cell

/-- The two interrupt requests the environment presents at one instruction boundary (R221). -/
structure IrqLines where
  irq0 : Bool
  irq1 : Bool
  deriving DecidableEq, Repr

/-- The two interrupts (R219). -/
inductive Irq where
  | int0
  | int1
  deriving DecidableEq, Repr

/-- What the environment is told (R67, R221, R242): the IO transfers in program order, and the entry of an
interrupt. -/
inductive Event where
  | ioRead (port value : Word)
  | ioWrite (port value : Word)
  | irqAck (n : Irq)
  deriving DecidableEq, Repr

/-- The machine.

The spec's own state: `regs` (r0 to r13, R21), `pc` (r14 as the address of the next instruction, R22), `sr` (r15, R28),
the five exception registers (R33 to R38) and `mem` (R50).
`stale` is the trace the fetched-ahead instructions leave (R41, R65): the addresses stored to inside the window of the
storing instruction and not yet passed by a control transfer.
The environment's side (R41, R221, R242): `irqIn` holds the request lines at the instruction boundaries to come, oldest
first, none requested once it is empty; `ioIn` the answers lined up for the reads to come; `events` what the
environment has been told so far, oldest first.
The model's own: `draws` counts the free draws taken from `Config.ioDraw` (log entry 2), and `cfg` carries the open
parameters (R6), which no step writes. -/
structure State where
  regs : Vector Word 14
  pc : Word
  sr : Word
  epc : Word
  esr : Word
  eur : Word
  enum : Word
  vbr : Word
  mem : Memory
  stale : List Word
  irqIn : List IrqLines
  ioIn : List Word
  events : List Event
  draws : Nat
  cfg : Config
  deriving DecidableEq, Repr

/-- Why a step has no meaning: the spec's "model fault" (R11, R214). None is a hardware exception. Every one of them
is SAFE: the spec says the source gives the access no meaning, and nothing can be proved of what follows. -/
inductive Fault where
  /-- Raised by the fetch at an odd `pc` (R27). Safe. -/
  | misalignedFetch (address : Word)
  /-- Raised by a 16-bit read, a vector fetch included, at an odd address (R55, R226). Safe. -/
  | misalignedRead (address : Word)
  /-- Raised by a 16-bit write at an odd address (R55). Safe. -/
  | misalignedWrite (address : Word)
  /-- Raised by a read or a fetch where nothing is mapped (R56). Safe. -/
  | unmappedRead (address : Word)
  /-- Raised by a write where nothing is mapped (R56). Safe. -/
  | unmappedWrite (address : Word)
  /-- Raised by a write to cartridge ROM (R56). Safe. -/
  | romWrite (address : Word)
  /-- Raised by a read or a fetch of a byte that nothing has written (R51, R43). Safe. -/
  | unwrittenByte (address : Word)
  /-- Raised by the fetch of an instruction one of whose bytes was stored to inside the `PC_AHEAD` window and not
  passed by a control transfer since (R65). Safe. -/
  | staleFetch (address : Word)
  deriving DecidableEq, Repr

/-- Why an instruction has no meaning in this model. No arm of `exec` answers with it. -/
inductive Refusal where
  /-- Raised by an arm of `exec` for an instruction not reached yet. Safe. -/
  | notModelled (mnemonic : String)
  deriving DecidableEq, Repr

/-- What one step answers. -/
abbrev Result := Host.Outcome State Fault Refusal

/-- The machine with the parameters `cfg` right after reset (R42, R251): `pc` at `RESET_PC`, SR at `RESET_SR`, no
interrupt requested, no byte of memory written. The spec gives r0 to r13 and the exception registers no value; the zero they hold here is a DESIGN
CHOICE, unsafe (log entry 1). -/
def State.resetWith (cfg : Config) : State where
  regs := Vector.replicate 14 0
  pc := cfg.resetPc
  sr := cfg.resetSr
  epc := 0
  esr := 0
  eur := 0
  enum := 0
  vbr := 0
  mem := []
  stale := []
  irqIn := []
  ioIn := []
  events := []
  draws := 0
  cfg := cfg

/-- The machine right after reset, with the parameter values the spec uses (R6). -/
def State.reset : State := State.resetWith defaultConfig

end Sys2Proof.Machine
end

