-- ==== Sys2Proof/Machine/Operands.lean ====
section
/-! DEFINITION. The operand forms: reading a main register, r14 and r15 included (spec/10_state.md R23, R25), the
effective address (R120), the values the immediates stand for (R90 to R92), and the conditions of a branch (R151). -/

namespace Sys2Proof.Machine

/-- The value of r0 to r13. -/
def State.gpr (s : State) (i : Fin 14) : Word := s.regs[i]

/-- What a read of r14 returns while the instruction at `s.pc` executes: A + `PC_AHEAD` (R23). -/
def State.pcRead (s : State) : Word := s.pc + BitVec.ofNat 16 s.cfg.pcAhead.bytes

/-- `x[i]` of R9: what naming a register as a source yields. -/
def State.read (s : State) : Reg → Word
  | .gpr i => s.gpr i
  | .pc => s.pcRead
  | .sr => s.sr

/-- `EA = (x[rA] + x[rB]) mod 2^16` (R120). -/
def State.effectiveAddress (s : State) (rA rB : Reg) : Word := s.read rA + s.read rB

/-- The 16-bit operand of a signed immediate, sign-extended (R90, R91, R92). -/
def immWord (im : Int) : Word := BitVec.ofInt 16 im

/-- The 16-bit value of an unsigned immediate: a port or an exception number (R92). -/
def immNat (im : Nat) : Word := BitVec.ofNat 16 im

/-- `imm8 ++ x[rD][7:0]` (R112). -/
def withHighByte (im : Nat) (w : Word) : Word := BitVec.ofNat 8 im ++ lowByte w

/-- What `ld8` makes of the byte it read and of rD's old value (R121, `LD8_EXTEND`). -/
def extendByte (how : Ld8Extend) (b : Byte) (old : Word) : Word :=
  match how with
  | .zero => b.zeroExtend 16
  | .sign => b.signExtend 16
  | .keep => highByte old ++ b

/-- Where a branch goes when it is taken: r14's value plus twice the offset (R150). -/
def State.branchTarget (s : State) (off : Int) : Word := s.pcRead + immWord (2 * off)

/-- `0 - rA` (R167). -/
def negated (a : Word) : Word := 0#16 - a

end Sys2Proof.Machine
end

