-- ==== Sys2Proof/Machine/Ops.lean ====
section
/-! DEFINITION. The named operations over registers, memory, the IO space and the exception registers. Each meaning is
a few of these; nothing else writes State. -/

namespace Sys2Proof.Machine

/-! ### Memory as data (spec/20_memory.md R50 to R54) -/

/-- What an address no entry lists reads as: no value, so that the read faults (R51, R43; log entry 16). -/
def unlistedByte : Option Byte := none

/-- The byte listed at an address. -/
def Memory.lookup : Memory → Nat → Option Byte
  | [], _ => none
  | (k, v) :: rest, a => if k = a then some v else Memory.lookup rest a

/-- The byte at an address, or `none` where it holds no value (R51). -/
def Memory.read (m : Memory) (a : Nat) : Option Byte :=
  match Memory.lookup m a with
  | some v => some v
  | none => unlistedByte

/-- `m` without an entry at `a`. -/
def Memory.delete : Memory → Nat → Memory
  | [], _ => []
  | (k, v) :: rest, a => if k = a then rest else (k, v) :: Memory.delete rest a

/-- `m` with the entry `(a, v)` in its place. -/
def Memory.insert : Memory → Nat → Byte → Memory
  | [], a, v => [(a, v)]
  | (k, u) :: rest, a, v =>
    if a < k then (a, v) :: (k, u) :: rest
    else if a = k then (a, v) :: rest
    else (k, u) :: Memory.insert rest a v

/-- `m` with the byte at `a` replaced, in canonical form. -/
def Memory.write (m : Memory) (a : Nat) (v : Byte) : Memory :=
  if unlistedByte = some v then Memory.delete m a else Memory.insert m a v

/-- Every entry lies at an address from `lo` on, below 2^16, in strictly rising order, and none says what an unlisted
address reads as anyway. -/
def Memory.sortedFrom : Memory → Nat → Bool
  | [], _ => true
  | (k, v) :: rest, lo =>
    decide (lo ≤ k) && decide (k < 65536) && decide (unlistedByte ≠ some v) && Memory.sortedFrom rest (k + 1)

/-- The canonical form. -/
def Memory.wf (m : Memory) : Bool := Memory.sortedFrom m 0

/-! ### The fields of State -/

/-- On to the next instruction in sequence, A + 2 modulo 2^16 (R24). -/
def State.advance (s : State) : State := { s with pc := s.pc + 2#16 }

/-- A control transfer (R26): the next instruction is at `target`, and fetched-ahead instructions are discarded
(R65). -/
def State.jump (s : State) (target : Word) : State := { s with pc := target, stale := [] }

/-- Replace one of r0 to r13. -/
def State.setGpr (s : State) (i : Fin 14) (v : Word) : State := { s with regs := s.regs.set i v }

/-- Replace SR, all 16 bits (R25, R29). -/
def State.setSr (s : State) (v : Word) : State := { s with sr := v }

/-- Replace EPC (R34). -/
def State.setEpc (s : State) (v : Word) : State := { s with epc := v }

/-- Replace ESR (R35). -/
def State.setEsr (s : State) (v : Word) : State := { s with esr := v }

/-- Replace EUR (R36). -/
def State.setEur (s : State) (v : Word) : State := { s with eur := v }

/-- Replace ENUM (R37). -/
def State.setEnum (s : State) (v : Word) : State := { s with enum := v }

/-- Replace VBR (R38). -/
def State.setVbr (s : State) (v : Word) : State := { s with vbr := v }

/-- Tell the environment something (R67, R221). -/
def State.tell (s : State) (e : Event) : State := { s with events := s.events ++ [e] }

/-- `x[i] <- v` of R9: a write to r14 transfers control (R26), a write to r15 replaces SR (R25). -/
def State.write (s : State) (r : Reg) (v : Word) : State :=
  match r with
  | .gpr i => s.setGpr i v
  | .pc => s.jump v
  | .sr => s.setSr v

/-- The end of an instruction whose only effect is `x[rD] <- v`: the next instruction is at A + 2 unless rD is r14. -/
def State.finish (s : State) (rD : Reg) (v : Word) : State := s.advance.write rD v

/-- Update the flags in SR (R30). -/
def State.withFlags (s : State) (c : Option Bool) (res : Word) : State := s.setSr (updateFlags c res s.sr)

/-- The end of an instruction that writes a result to rD and updates the flags from it, in the order `SR_WRITE_ORDER`
gives for rD = r15 (R130). -/
def State.finishWithFlags (s : State) (rD : Reg) (res : Word) (c : Option Bool) : State :=
  match s.cfg.srWriteOrder with
  | .resultThenFlags => (s.finish rD res).withFlags c res
  | .flagsThenResult => (s.advance.withFlags c res).write rD res

/-- The end of a compare: the flags alone (R169, R186). -/
def State.finishCompare (s : State) (diff : Word) (borrow : Bool) : State := s.advance.withFlags (some borrow) diff

/-- Take the branch or go on (R150). -/
def State.branchIf (s : State) (taken : Bool) (off : Int) : State :=
  if taken then s.jump (s.branchTarget off) else s.advance

/-! ### Memory accesses of the CPU (R51 to R57) -/

/-- What `MEMMAP` makes of an address: the kind of the first region that holds it (R56). -/
def kindAt : List Region → Nat → RegionKind
  | [], _ => .unmapped
  | r :: rest, a => if r.base ≤ a ∧ a < r.base + r.size then r.kind else kindAt rest a

/-- The kind of the region an address lies in. -/
def State.kindOf (s : State) (a : Word) : RegionKind := kindAt s.cfg.memMap a.toNat

/-- The address is odd: no 16-bit access has a meaning there (R55). -/
def misaligned (a : Word) : Bool := a.getLsbD 0

/-- What a 16-bit access at an odd address does, with the fault that names it (`MISALIGNED_POLICY`, R27, R55). -/
def onMisaligned {α : Type} (policy : MisalignedPolicy) (f : Fault) : Except Fault α :=
  match policy with
  | .fault => .error f

/-- `MemRead(a, 1)` (R51). -/
def memRead8 (s : State) (a : Word) : Except Fault Byte :=
  match s.kindOf a with
  | .unmapped => .error (.unmappedRead a)
  | .rom | .ram =>
    match Memory.read s.mem a.toNat with
    | some v => .ok v
    | none => .error (.unwrittenByte a)

/-- `MemRead(a, 2)` (R52). -/
def memRead16 (s : State) (a : Word) : Except Fault Word :=
  if misaligned a then onMisaligned s.cfg.misalignedPolicy (.misalignedRead a)
  else
    match memRead8 s a with
    | .error f => .error f
    | .ok lower =>
      match memRead8 s (a + 1#16) with
      | .error f => .error f
      | .ok upper => .ok (joinBytes s.cfg.byteOrder lower upper)

/-- Why a write to an address has no meaning, if it has none (R56). -/
def writeFault (s : State) (a : Word) : Option Fault :=
  match s.kindOf a with
  | .unmapped => some (.unmappedWrite a)
  | .rom => some (.romWrite a)
  | .ram => none

/-- The byte lies in the window `[A+2, A+PC_AHEAD)` of the instruction at `s.pc` (R65). -/
def State.inWindow (s : State) (a : Word) : Bool := (a - (s.pc + 2#16)).toNat < s.cfg.pcAhead.bytes - 2

/-- Replace one byte of memory, and remember it where the instructions fetched ahead may miss it (R53, R65). -/
def State.storeByte (s : State) (a : Word) (v : Byte) : State :=
  { s with
    mem := Memory.write s.mem a.toNat v
    stale := if s.inWindow a then a :: s.stale else s.stale }

/-- `MemWrite(a, 1, v)` (R53). -/
def memWrite8 (s : State) (a : Word) (v : Byte) : Except Fault State :=
  match writeFault s a with
  | some f => .error f
  | none => .ok (s.storeByte a v)

/-- `MemWrite(a, 2, v)` (R54): both bytes are admitted before either is written (R60). -/
def memWrite16 (s : State) (a : Word) (v : Word) : Except Fault State :=
  if misaligned a then onMisaligned s.cfg.misalignedPolicy (.misalignedWrite a)
  else
    match writeFault s a, writeFault s (a + 1#16) with
    | some f, _ => .error f
    | none, some f => .error f
    | none, none =>
      .ok ((s.storeByte a (lowerByte s.cfg.byteOrder v)).storeByte (a + 1#16) (upperByte s.cfg.byteOrder v))

/-- Go on with the value of an access, or stop with its fault. -/
def orFault {α : Type} (access : Except Fault α) (go : α → State) : Result :=
  match access with
  | .error f => .fault f
  | .ok v => .next (go v)

/-! ### The IO space (R66, R67) -/

/-- The port is that of a serial port this machine does not have (R67, R240). -/
def State.absentPort (s : State) (port : Word) : Bool := !s.cfg.serialPresent && port == s.cfg.serialPort

/-- The environment's next answer: the one lined up, else a free draw (R67). -/
def State.answer (s : State) (port : Word) : Word :=
  match s.ioIn with
  | v :: _ => v
  | [] => Config.ioDraw s.draws port

/-- Use up that answer. -/
def State.useAnswer (s : State) : State :=
  match s.ioIn with
  | _ :: rest => { s with ioIn := rest }
  | [] => { s with draws := s.draws + 1 }

/-- The value of `IoRead(port)`: "reads should return $FFFF" where the serial port is absent (R67, R240). -/
def State.ioValue (s : State) (port : Word) : Word := if s.absentPort port then 0xFFFF#16 else s.answer port

/-- The state after `IoRead(port)`: the answer used up and recorded as an input event (R67). -/
def State.afterIoRead (s : State) (port : Word) : State :=
  if s.absentPort port then s else s.useAnswer.tell (.ioRead port (s.answer port))

/-- `x[rD] <- IoRead(port)` (R176, R178). -/
def State.ioReadTo (s : State) (port : Word) (rD : Reg) : State := (s.afterIoRead port).finish rD (s.ioValue port)

/-- `IoWrite(port, v)` (R67): an output event, or nothing where the serial port is absent. -/
def State.ioWrite (s : State) (port v : Word) : State :=
  if s.absentPort port then s else s.tell (.ioWrite port v)

/-! ### Taking an exception and returning from one (spec/60_exceptions.md R215 to R224) -/

/-- The handler's address for an exception number (R217). -/
def vectorAddress (s : State) (number : Word) : Except Fault Word :=
  match s.cfg.vectorMode with
  | .table => memRead16 s (s.vbr + 2#16 * number)
  | .direct stride => .ok (s.vbr + stride * number)

/-- The state at the handler's first instruction (R215): EPC the return address, ESR the old SR, ENUM the number, the
enables cleared, `pc` at the handler; EUR, VBR and r0 to r13 as they were. -/
def State.enter (s : State) (number ret handler : Word) : State :=
  { s with epc := ret, esr := s.sr, enum := number, sr := clearEnables s.sr, pc := handler, stale := [] }

/-- `raise Exception(number, ret)` (R215, R226). -/
def takeException (number ret : Word) (s : State) : Result :=
  orFault (vectorAddress s number) (s.enter number ret)

/-- The return, `x[rD] <- EUR; SR <- ESR; pc <- EPC`, in that order (R224, R191). -/
def State.returnFromException (s : State) (rD : Reg) : State := ((s.write rD s.eur).setSr s.esr).jump s.epc

/-- The return address an invalid word saves (R212, `INVALID_EPC`). -/
def State.invalidReturn (s : State) : Word :=
  match s.cfg.invalidEpc with
  | .next => s.pc + 2#16
  | .self => s.pc

/-- The invalid instruction exception (R212, R162). -/
def takeInvalid (s : State) : Result := takeException s.cfg.vecInvalid s.invalidReturn s

end Sys2Proof.Machine
end

