-- ==== Sys2Proof/Machine/Boundary.lean ====
section
/-! DEFINITION. What happens at an instruction boundary (spec/60_exceptions.md R219 to R223): the environment's request
lines are sampled, an interrupt is entered or the next instruction fetched (spec/20_memory.md R57, R65); and how a
program's bytes come into memory (R242). -/

namespace Sys2Proof.Machine

/-- The request lines at this boundary (R221); none is raised once the environment has lined up no more. -/
def State.irqLines (s : State) : IrqLines :=
  match s.irqIn with
  | l :: _ => l
  | [] => { irq0 := false, irq1 := false }

/-- The boundary is passed. -/
def State.passBoundary (s : State) : State := { s with irqIn := s.irqIn.tail }

/-- The interrupt taken at this boundary: one that is requested and enabled, by `IRQ_PRIORITY` where both are (R220,
R222, R223). -/
def State.acceptedIrq (s : State) : Option Irq :=
  let take0 := s.irqLines.irq0 && enable0 s.sr
  let take1 := s.irqLines.irq1 && enable1 s.sr
  match s.cfg.irqPriority with
  | .int0First => if take0 then some .int0 else if take1 then some .int1 else none
  | .int1First => if take1 then some .int1 else if take0 then some .int0 else none

/-- The exception number of an interrupt (R211). -/
def State.irqNumber (s : State) : Irq → Word
  | .int0 => s.cfg.vecInt0
  | .int1 => s.cfg.vecInt1

/-- Enter an interrupt (R215, R216, R222): the return address is `pc`, the first instruction not executed, and the
environment is told (R221). -/
def takeInterrupt (n : Irq) (s : State) : Result := takeException (s.irqNumber n) s.pc (s.tell (.irqAck n))

/-- One of the two bytes at `pc` was stored to inside the window of an earlier instruction (R65). -/
def State.fetchIsStale (s : State) : Bool := s.stale.contains s.pc || s.stale.contains (s.pc + 1#16)

/-- The instruction word at `pc` (R27, R57, R65). -/
def fetchWord (s : State) : Except Fault Word :=
  if misaligned s.pc then onMisaligned s.cfg.misalignedPolicy (.misalignedFetch s.pc)
  else if s.fetchIsStale then .error (.staleFetch s.pc)
  else memRead16 s s.pc

/-- Bytes placed in memory from outside the machine, ROM included (R242). -/
def State.load (s : State) (cells : List Host.Cell) : State :=
  { s with mem := cells.foldl (fun m c => Memory.write m c.1 c.2) s.mem }

/-- The word placed where the next step fetches: at `pc`, in the machine's byte order, no interrupt taken at the
boundary before it and nothing stale. -/
def State.placeWord (s : State) (w : Word) : State :=
  let order := s.cfg.byteOrder
  { s.load [(s.pc.toNat, lowerByte order w), ((s.pc + 1#16).toNat, upperByte order w)] with
    stale := []
    irqIn := match s.irqIn with
      | [] => []
      | _ :: rest => { irq0 := false, irq1 := false } :: rest }

end Sys2Proof.Machine
end

