-- ==== Sys2Proof/Machine/Alu.lean ====
section
/-! DEFINITION. The three-register arithmetic, logic and shift instructions (spec/42_alu_register.md). -/

namespace Sys2Proof.Machine

/-- The end of an instruction whose result and C come as a pair. -/
def State.finishPair (s : State) (rD : Reg) (r : Word × Option Bool) : Result :=
  .next (s.finishWithFlags rD r.1 r.2)

/-- The end of an addition: its result, and C the carry out of bit 15. -/
def State.finishSum (s : State) (rD : Reg) (r : Word × Bool) : Result :=
  .next (s.finishWithFlags rD r.1 (some r.2))

/-- The count a register shift takes from rB (R136). -/
def State.registerCount (s : State) (rB : Reg) : Nat := shiftCount s.cfg.shiftCountBits (s.read rB)

/-- R131. -/
def execAdd (rA rB rD : Reg) (s : State) : Result :=
  s.finishSum rD (addWithCarry (s.read rA) (s.read rB) false)

/-- R132. -/
def execAdc (rA rB rD : Reg) (s : State) : Result :=
  s.finishSum rD (addWithCarry (s.read rA) (s.read rB) (flagC s.sr))

/-- R133. -/
def execAnd (rA rB rD : Reg) (s : State) : Result := .next (s.finishWithFlags rD (s.read rA &&& s.read rB) none)

/-- R134. -/
def execOr (rA rB rD : Reg) (s : State) : Result := .next (s.finishWithFlags rD (s.read rA ||| s.read rB) none)

/-- R135. -/
def execXor (rA rB rD : Reg) (s : State) : Result := .next (s.finishWithFlags rD (s.read rA ^^^ s.read rB) none)

/-- R137. -/
def execLsl (rA rB rD : Reg) (s : State) : Result :=
  s.finishPair rD (shiftLeft s.cfg.shift0Carry (s.read rA) (s.registerCount rB))

/-- R138. -/
def execLsr (rA rB rD : Reg) (s : State) : Result :=
  s.finishPair rD (shiftRight s.cfg.shift0Carry (s.read rA) (s.registerCount rB))

/-- R139. -/
def execAsr (rA rB rD : Reg) (s : State) : Result :=
  s.finishPair rD (shiftRightArith s.cfg.shift0Carry (s.read rA) (s.registerCount rB))

end Sys2Proof.Machine
end

