-- ==== Sys2Proof/Machine/AluImmediate.lean ====
section
/-! DEFINITION. The short-immediate arithmetic, logic, shift and compare instructions (spec/46_alu_immediate.md). The
count of an immediate shift is 1 to 8, so the reading of a shift by 0 has no part in it (R184, R185). -/

namespace Sys2Proof.Machine

/-- R181: the carry is that of the 16-bit addition, for a negative immediate too. -/
def execAddi (im : Int) (rD : Reg) (s : State) : Result :=
  s.finishSum rD (addWithCarry (s.read rD) (immWord im) false)

/-- R182. -/
def execAndi (im : Int) (rD : Reg) (s : State) : Result := .next (s.finishWithFlags rD (s.read rD &&& immWord im) none)

/-- R183. -/
def execOri (im : Int) (rD : Reg) (s : State) : Result := .next (s.finishWithFlags rD (s.read rD ||| immWord im) none)

/-- R184. -/
def execLsli (im : Nat) (rD : Reg) (s : State) : Result :=
  s.finishPair rD (shiftLeft s.cfg.shift0Carry (s.read rD) im)

/-- R185. -/
def execLsri (im : Nat) (rD : Reg) (s : State) : Result :=
  s.finishPair rD (shiftRight s.cfg.shift0Carry (s.read rD) im)

/-- R186. -/
def execCmpi (im : Int) (rD : Reg) (s : State) : Result :=
  .next (s.finishCompare (s.read rD - immWord im) (borrowOf (s.read rD) (immWord im)))

end Sys2Proof.Machine
end

