-- ==== Sys2Proof/Machine/Branch.lean ====
section
/-! DEFINITION. The ten conditional branches (spec/43_branch.md): each evaluates the condition R151 gives it on SR and
goes to A + `PC_AHEAD` + twice the offset, or on to A + 2 (R150). -/

namespace Sys2Proof.Machine

/-- R152: always. -/
def execBra (off : Int) (s : State) : Result := .next (s.branchIf true off)

/-- R153: never, "effectively a nop". -/
def execBrf (off : Int) (s : State) : Result := .next (s.branchIf false off)

/-- R154: Z == 1. -/
def execBeq (off : Int) (s : State) : Result := .next (s.branchIf (flagZ s.sr) off)

/-- R155: Z == 0. -/
def execBne (off : Int) (s : State) : Result := .next (s.branchIf (!flagZ s.sr) off)

/-- R156: N == 1. -/
def execBmi (off : Int) (s : State) : Result := .next (s.branchIf (flagN s.sr) off)

/-- R157: N == 0. -/
def execBpl (off : Int) (s : State) : Result := .next (s.branchIf (!flagN s.sr) off)

/-- R158: C == 1. -/
def execBcs (off : Int) (s : State) : Result := .next (s.branchIf (flagC s.sr) off)

/-- R159: C == 0 (the source's row says 1, a misprint: 90_conflicts.md C2). -/
def execBcc (off : Int) (s : State) : Result := .next (s.branchIf (!flagC s.sr) off)

/-- R160: C == 0 and Z == 0. -/
def execBgr (off : Int) (s : State) : Result := .next (s.branchIf (!flagC s.sr && !flagZ s.sr) off)

/-- R161: C == 1 or Z == 1. -/
def execBle (off : Int) (s : State) : Result := .next (s.branchIf (flagC s.sr || flagZ s.sr) off)

end Sys2Proof.Machine
end

