-- ==== Sys2Proof/Machine/ExceptionInstructions.lean ====
section
/-! DEFINITION. The exception and special-register instructions (spec/47_exception_instructions.md) and the invalid
words (spec/30_encoding.md R93). There is one privilege level: each runs always (R190, R228). -/

namespace Sys2Proof.Machine

/-- R191. -/
def execReti (rD : Reg) (s : State) : Result := .next (s.returnFromException rD)

/-- R192: the number is all 16 bits of rD. -/
def execTrap (rD : Reg) (s : State) : Result := takeException (s.read rD) (s.pc + 2#16) s

/-- R193. -/
def execTrapi (im : Nat) (s : State) : Result := takeException (immNat im) (s.pc + 2#16) s

/-- R194. -/
def execGetepc (rD : Reg) (s : State) : Result := .next (s.finish rD s.epc)

/-- R195. -/
def execSetepc (rD : Reg) (s : State) : Result := .next (s.advance.setEpc (s.read rD))

/-- R196. -/
def execGetesr (rD : Reg) (s : State) : Result := .next (s.finish rD s.esr)

/-- R197. -/
def execSetesr (rD : Reg) (s : State) : Result := .next (s.advance.setEsr (s.read rD))

/-- R198. -/
def execGeteur (rD : Reg) (s : State) : Result := .next (s.finish rD s.eur)

/-- R199. -/
def execSeteur (rD : Reg) (s : State) : Result := .next (s.advance.setEur (s.read rD))

/-- R200. -/
def execGetenum (rD : Reg) (s : State) : Result := .next (s.finish rD s.enum)

/-- R201. -/
def execSetenum (rD : Reg) (s : State) : Result := .next (s.advance.setEnum (s.read rD))

/-- R202. -/
def execGetvbr (rD : Reg) (s : State) : Result := .next (s.finish rD s.vbr)

/-- R203. -/
def execSetvbr (rD : Reg) (s : State) : Result := .next (s.advance.setVbr (s.read rD))

/-- R162: CC = 10. -/
def execInvalidCc10 (s : State) : Result := takeInvalid s

/-- R162: CC = 11. -/
def execInvalidCc11 (s : State) : Result := takeInvalid s

/-- R162: CC = 12. -/
def execInvalidCc12 (s : State) : Result := takeInvalid s

/-- R162: CC = 13. -/
def execInvalidCc13 (s : State) : Result := takeInvalid s

/-- R162: CC = 14. -/
def execInvalidCc14 (s : State) : Result := takeInvalid s

/-- R162: CC = 15. -/
def execInvalidCc15 (s : State) : Result := takeInvalid s

/-- R93: `sub1` = 0xD. -/
def execInvalidSub1D (s : State) : Result := takeInvalid s

/-- R93: `sub1` = 0xE. -/
def execInvalidSub1E (s : State) : Result := takeInvalid s

/-- R93: `sub1` = 0xF. -/
def execInvalidSub1F (s : State) : Result := takeInvalid s

end Sys2Proof.Machine
end

