-- ==== Sys2Proof/Machine/Io.lean ====
section
/-! DEFINITION. `in`, `out`, `ini` and `outi` (spec/45_io.md): the port is the whole of rA, or the immediate. -/

namespace Sys2Proof.Machine

/-- R176, the instruction `in`. -/
def execInp (rA rD : Reg) (s : State) : Result := .next (s.ioReadTo (s.read rA) rD)

/-- R177. -/
def execOut (rA rD : Reg) (s : State) : Result := .next (s.ioWrite (s.read rA) (s.read rD)).advance

/-- R178. -/
def execIni (im : Nat) (rD : Reg) (s : State) : Result := .next (s.ioReadTo (immNat im) rD)

/-- R179. -/
def execOuti (im : Nat) (rD : Reg) (s : State) : Result := .next (s.ioWrite (immNat im) (s.read rD)).advance

end Sys2Proof.Machine
end

