-- ==== Sys2Proof/Machine/LoadImmediate.lean ====
section
/-! DEFINITION. `ldim` and `ldimh` (spec/40_load_immediate.md). -/

namespace Sys2Proof.Machine

/-- R111: `x[rD] <- sext_16(imm8)`. -/
def execLdim (im : Int) (rD : Reg) (s : State) : Result := .next (s.finish rD (immWord im))

/-- R112: `x[rD] <- imm8 ++ x[rD][7:0]`. -/
def execLdimh (im : Nat) (rD : Reg) (s : State) : Result := .next (s.finish rD (withHighByte im (s.read rD)))

end Sys2Proof.Machine
end

