-- ==== Sys2Proof/Machine/LoadStore.lean ====
section
/-! DEFINITION. `ld8`, `ld16`, `str8` and `str16` (spec/41_load_store.md). -/

namespace Sys2Proof.Machine

/-- R121: the byte at EA, extended as `LD8_EXTEND` says. -/
def execLd8 (rA rB rD : Reg) (s : State) : Result :=
  orFault (memRead8 s (s.effectiveAddress rA rB))
    fun b => s.finish rD (extendByte s.cfg.ld8Extend b (s.read rD))

/-- R122: the word at EA. -/
def execLd16 (rA rB rD : Reg) (s : State) : Result :=
  orFault (memRead16 s (s.effectiveAddress rA rB)) fun w => s.finish rD w

/-- R123: the low byte of rD goes to EA. -/
def execStr8 (rA rB rD : Reg) (s : State) : Result :=
  orFault (memWrite8 s (s.effectiveAddress rA rB) (lowByte (s.read rD))) State.advance

/-- R124: rD goes to EA. -/
def execStr16 (rA rB rD : Reg) (s : State) : Result :=
  orFault (memWrite16 s (s.effectiveAddress rA rB) (s.read rD)) State.advance

end Sys2Proof.Machine
end

