-- ==== Sys2Proof/Machine/TwoOperand.lean ====
section
/-! DEFINITION. The two-register instructions (spec/44_two_operand.md): every register is read before any is written,
and two writes to one place come in the order of the source's sentence (R165). -/

namespace Sys2Proof.Machine

/-- R166. -/
def execMov (rA rD : Reg) (s : State) : Result := .next (s.finish rD (s.read rA))

/-- R167. -/
def execNeg (rA rD : Reg) (s : State) : Result :=
  .next (s.finishWithFlags rD (negated (s.read rA)) (some (carryOfNeg s.cfg.negCarry (s.read rA))))

/-- R168. -/
def execNot (rA rD : Reg) (s : State) : Result := .next (s.finishWithFlags rD (~~~(s.read rA)) none)

/-- R169: rD - rA, flags only, C the borrow (90_conflicts.md C3). -/
def execCmp (rA rD : Reg) (s : State) : Result :=
  .next (s.finishCompare (s.read rD - s.read rA) (borrowOf (s.read rD) (s.read rA)))

/-- R170: the link A + 2 is written first and the target last. -/
def execCall (rA rD : Reg) (s : State) : Result := .next ((s.finish rD (s.pc + 2#16)).jump (s.read rA))

/-- R171: rA gets rD's old value, then rD gets rA's. -/
def execSwap (rA rD : Reg) (s : State) : Result := .next ((s.finish rA (s.read rD)).write rD (s.read rA))

end Sys2Proof.Machine
end

