-- ==== Sys2Proof/Machine/Dispatch.lean ====
section
/-! DEFINITION. Which meaning each instruction has: one arm per constructor of `Instr`. -/

namespace Sys2Proof.Machine

def exec (i : Instr) (s : State) : Host.Outcome State Fault Refusal :=
  match i with
  | .ldim im rD => Sys2Proof.Machine.execLdim im rD s
  | .ldimh im rD => Sys2Proof.Machine.execLdimh im rD s
  | .ld8 rA rB rD => Sys2Proof.Machine.execLd8 rA rB rD s
  | .ld16 rA rB rD => Sys2Proof.Machine.execLd16 rA rB rD s
  | .str8 rA rB rD => Sys2Proof.Machine.execStr8 rA rB rD s
  | .str16 rA rB rD => Sys2Proof.Machine.execStr16 rA rB rD s
  | .add rA rB rD => Sys2Proof.Machine.execAdd rA rB rD s
  | .adc rA rB rD => Sys2Proof.Machine.execAdc rA rB rD s
  | .and rA rB rD => Sys2Proof.Machine.execAnd rA rB rD s
  | .or rA rB rD => Sys2Proof.Machine.execOr rA rB rD s
  | .xor rA rB rD => Sys2Proof.Machine.execXor rA rB rD s
  | .lsl rA rB rD => Sys2Proof.Machine.execLsl rA rB rD s
  | .lsr rA rB rD => Sys2Proof.Machine.execLsr rA rB rD s
  | .asr rA rB rD => Sys2Proof.Machine.execAsr rA rB rD s
  | .bra off => Sys2Proof.Machine.execBra off s
  | .brf off => Sys2Proof.Machine.execBrf off s
  | .beq off => Sys2Proof.Machine.execBeq off s
  | .bne off => Sys2Proof.Machine.execBne off s
  | .bmi off => Sys2Proof.Machine.execBmi off s
  | .bpl off => Sys2Proof.Machine.execBpl off s
  | .bcs off => Sys2Proof.Machine.execBcs off s
  | .bcc off => Sys2Proof.Machine.execBcc off s
  | .bgr off => Sys2Proof.Machine.execBgr off s
  | .ble off => Sys2Proof.Machine.execBle off s
  | .mov rA rD => Sys2Proof.Machine.execMov rA rD s
  | .neg rA rD => Sys2Proof.Machine.execNeg rA rD s
  | .not rA rD => Sys2Proof.Machine.execNot rA rD s
  | .cmp rA rD => Sys2Proof.Machine.execCmp rA rD s
  | .call rA rD => Sys2Proof.Machine.execCall rA rD s
  | .swap rA rD => Sys2Proof.Machine.execSwap rA rD s
  | .inp rA rD => Sys2Proof.Machine.execInp rA rD s
  | .out rA rD => Sys2Proof.Machine.execOut rA rD s
  | .ini im rD => Sys2Proof.Machine.execIni im rD s
  | .outi im rD => Sys2Proof.Machine.execOuti im rD s
  | .addi im rD => Sys2Proof.Machine.execAddi im rD s
  | .andi im rD => Sys2Proof.Machine.execAndi im rD s
  | .ori im rD => Sys2Proof.Machine.execOri im rD s
  | .lsli im rD => Sys2Proof.Machine.execLsli im rD s
  | .lsri im rD => Sys2Proof.Machine.execLsri im rD s
  | .cmpi im rD => Sys2Proof.Machine.execCmpi im rD s
  | .reti rD => Sys2Proof.Machine.execReti rD s
  | .trap rD => Sys2Proof.Machine.execTrap rD s
  | .trapi im => Sys2Proof.Machine.execTrapi im s
  | .getepc rD => Sys2Proof.Machine.execGetepc rD s
  | .setepc rD => Sys2Proof.Machine.execSetepc rD s
  | .getesr rD => Sys2Proof.Machine.execGetesr rD s
  | .setesr rD => Sys2Proof.Machine.execSetesr rD s
  | .geteur rD => Sys2Proof.Machine.execGeteur rD s
  | .seteur rD => Sys2Proof.Machine.execSeteur rD s
  | .getenum rD => Sys2Proof.Machine.execGetenum rD s
  | .setenum rD => Sys2Proof.Machine.execSetenum rD s
  | .getvbr rD => Sys2Proof.Machine.execGetvbr rD s
  | .setvbr rD => Sys2Proof.Machine.execSetvbr rD s
  | .invalidCc10 _ => Sys2Proof.Machine.execInvalidCc10 s
  | .invalidCc11 _ => Sys2Proof.Machine.execInvalidCc11 s
  | .invalidCc12 _ => Sys2Proof.Machine.execInvalidCc12 s
  | .invalidCc13 _ => Sys2Proof.Machine.execInvalidCc13 s
  | .invalidCc14 _ => Sys2Proof.Machine.execInvalidCc14 s
  | .invalidCc15 _ => Sys2Proof.Machine.execInvalidCc15 s
  | .invalidSub1D _ => Sys2Proof.Machine.execInvalidSub1D s
  | .invalidSub1E _ => Sys2Proof.Machine.execInvalidSub1E s
  | .invalidSub1F _ => Sys2Proof.Machine.execInvalidSub1F s

end Sys2Proof.Machine
end

