-- ==== Sys2Proof/Machine/Step.lean ====
section
/-! DEFINITION. One step: an interrupt entry, or one instruction (spec/60_exceptions.md R222, spec/70_reset_and_hazards.md
R256). -/

namespace Sys2Proof.Machine

/-- One step of the machine. At the boundary before it the request lines are sampled; an interrupt that is requested
and enabled is entered instead of fetching (R222), otherwise the instruction at `pc` is fetched and executed (R57). -/
def step (s : State) : Host.Outcome State Fault Refusal :=
  match s.acceptedIrq with
  | some n => takeInterrupt n s.passBoundary
  | none =>
    match fetchWord s with
    | .error f => .fault f
    | .ok w => exec (decodeWord s.cfg w) s.passBoundary

/-- `s` with an instruction whose bits are `w` stored where the next step fetches, so that this step runs it. -/
def State.withFetchWord (s : State) (nbits w : Nat) : State := s.placeWord (BitVec.ofNat 16 (w % 2 ^ nbits))

end Sys2Proof.Machine
end

