-- ==== Sys2Proof/Safety.lean ====
section
/-! DEFINITION. What the claims about runs speak of: a step that has a meaning, the states a run reaches, and the end of
a run (spec/70_reset_and_hazards.md R257). -/

namespace Sys2Proof.Machine

/-- The step at `s` has a meaning: it is no model fault and no refusal (R11, R214). -/
def Completes (s : State) : Prop := ∃ t, step s = .next t

/-- `t` is reached from `s` by steps that all have a meaning. -/
inductive Reaches (s : State) : State → Prop where
  | here : Reaches s s
  | there {t u : State} : Reaches s t → step t = .next u → Reaches s u

/-- The offset, in instructions, of a branch to itself: -`PC_AHEAD`/2 (R150, R257). -/
def selfOffset (ahead : PcAhead) : Int := -(ahead.bytes / 2 : Nat)

/-- The end of a run (R257): the instruction about to execute is `bra` to itself, and no interrupt is both enabled and
requested. -/
def State.runEnded (s : State) : Bool :=
  s.acceptedIrq.isNone &&
    match fetchWord s with
    | .ok w => decodeWord s.cfg w == .bra (selfOffset s.cfg.pcAhead)
    | .error _ => false

/-- Memory is in canonical form, and every stale byte lies ahead of `pc` within what a store at the instruction before
could have reached (R65): the invariant every step keeps. -/
structure State.Inv (s : State) : Prop where
  memWf : Memory.wf s.mem = true
  staleAhead : ∀ a ∈ s.stale, (a - s.pc).toNat < s.cfg.pcAhead.bytes - 2

end Sys2Proof.Machine

/-! ### The terms the claims use -/

namespace Sys2Proof.Claims

open Sys2Proof.Machine

/-- `x[rD] <- v` and nothing else has happened to r0 to r13 and `pc`: rD alone holds `v`, and the next instruction is at
A + 2 unless rD is r14, a control transfer (R24, R26). -/
def Writes (s t : State) (rD : Reg) (v : Word) : Prop :=
  (∀ k : Fin 14, t.gpr k = if rD = .gpr k then v else s.gpr k) ∧
    (t.pc = if rD = .pc then v else s.pc + 2#16) ∧ (t.stale = if rD = .pc then [] else s.stale)

/-- No main register is written: r0 to r13 are as before and the next instruction is at A + 2. -/
def GoesOn (s t : State) : Prop :=
  (∀ k : Fin 14, t.gpr k = s.gpr k) ∧ t.pc = s.pc + 2#16 ∧ t.stale = s.stale

/-- SR after an instruction that changes no flag: all of it written where rD is r15, else as before (R25). -/
def SrWritten (s t : State) (rD : Reg) (v : Word) : Prop := t.sr = if rD = .sr then v else s.sr

/-- A flag update from the result `res` (R30): N its bit 15, Z whether it is zero, C as given (`none`: as before), and
every other bit of SR as before. -/
def FlagsOn (before after res : Word) (c : Option Bool) : Prop :=
  flagN after = decide (32768 ≤ res.toNat) ∧ flagZ after = decide (res.toNat = 0) ∧
    flagC after = c.getD (flagC before) ∧
    ∀ j : Nat, j ≠ 4 → j ≠ 3 → j ≠ 2 → after.getLsbD j = before.getLsbD j

/-- SR after an instruction that writes `res` to rD and updates the flags from it (R130): where rD is r15 the two
writes meet, in the order `SR_WRITE_ORDER` gives. -/
def FlagsSet (s t : State) (rD : Reg) (res : Word) (c : Option Bool) : Prop :=
  if rD = .sr then
    match s.cfg.srWriteOrder with
    | .resultThenFlags => FlagsOn res t.sr res c
    | .flagsThenResult => t.sr = res
  else FlagsOn s.sr t.sr res c

/-- The five exception registers are as before. -/
def SameExceptionRegs (s t : State) : Prop :=
  t.epc = s.epc ∧ t.esr = s.esr ∧ t.eur = s.eur ∧ t.enum = s.enum ∧ t.vbr = s.vbr

/-- Every byte of memory reads as before. -/
def SameMemory (s t : State) : Prop := ∀ a : Nat, Memory.read t.mem a = Memory.read s.mem a

/-- Nothing has passed between the CPU and the environment, and the parameters are as before. -/
def SameEnvironment (s t : State) : Prop :=
  t.irqIn = s.irqIn ∧ t.ioIn = s.ioIn ∧ t.events = s.events ∧ t.draws = s.draws ∧ t.cfg = s.cfg

/-- Exception registers, memory and environment are as before. -/
def Quiet (s t : State) : Prop := SameExceptionRegs s t ∧ SameMemory s t ∧ SameEnvironment s t

/-- The instruction completes, writes `v` to rD, changes no flag but by rD = r15, and nothing else. -/
def Yields (i : Instr) (s : State) (rD : Reg) (v : Word) : Prop :=
  ∃ t, exec i s = .next t ∧ Writes s t rD v ∧ SrWritten s t rD v ∧ Quiet s t

/-- The instruction completes, writes `res` to rD, updates the flags from it, and nothing else. -/
def YieldsWithFlags (i : Instr) (s : State) (rD : Reg) (res : Word) (c : Option Bool) : Prop :=
  ∃ t, exec i s = .next t ∧ Writes s t rD res ∧ FlagsSet s t rD res c ∧ Quiet s t

/-- The instruction completes, writes no main register, sets the flags from `diff` with C as given, and nothing else. -/
def Compares (i : Instr) (s : State) (diff : Word) (borrow : Bool) : Prop :=
  ∃ t, exec i s = .next t ∧ GoesOn s t ∧ FlagsOn s.sr t.sr diff (some borrow) ∧ Quiet s t

/-- The instruction completes at A + `PC_AHEAD` + 2 * off where it is taken, at A + 2 where it is not, and changes
nothing else (R150). -/
def BranchesIf (i : Instr) (s : State) (taken : Bool) (off : Int) : Prop :=
  ∃ t, exec i s = .next t ∧
    (t.pc = if taken then s.pc + BitVec.ofNat 16 s.cfg.pcAhead.bytes + BitVec.ofInt 16 (2 * off) else s.pc + 2#16) ∧
    (∀ k : Fin 14, t.gpr k = s.gpr k) ∧ t.sr = s.sr ∧ (t.stale = if taken then [] else s.stale) ∧ Quiet s t

/-- The address is even, both bytes can be read, and in the machine's byte order they are the word `w` (R52, R55,
R56). -/
def WordAt (s : State) (a w : Word) : Prop :=
  a.toNat % 2 = 0 ∧ s.kindOf a ≠ .unmapped ∧ s.kindOf (a + 1#16) ≠ .unmapped ∧
    ∃ lower upper : Byte,
      Memory.read s.mem a.toNat = some lower ∧ Memory.read s.mem (a + 1#16).toNat = some upper ∧
        w.toNat =
          match s.cfg.byteOrder with
          | .big => lower.toNat * 256 + upper.toNat
          | .little => upper.toNat * 256 + lower.toNat

/-- The address is mapped and its byte has been written (R51, R56). -/
def ByteReadable (s : State) (a : Word) : Prop :=
  s.kindOf a ≠ .unmapped ∧ ∃ v : Byte, Memory.read s.mem a.toNat = some v

/-- The byte at the address cannot be read, for the reason `f`: nothing is mapped there, or nothing has been written (R51,
R56). -/
def ByteReadFails (s : State) (a : Word) (f : Fault) : Prop :=
  (s.kindOf a = .unmapped ∧ f = .unmappedRead a) ∨
    (s.kindOf a ≠ .unmapped ∧ Memory.read s.mem a.toNat = none ∧ f = .unwrittenByte a)

/-- One of the two bytes from the address on cannot be read; the reason is the first one's where neither can. -/
def WordReadFails (s : State) (a : Word) (f : Fault) : Prop :=
  ByteReadFails s a f ∨ (ByteReadable s a ∧ ByteReadFails s (a + 1#16) f)

/-- The byte at the address cannot be written, for the reason `f`: nothing is mapped there, or it is ROM (R56). -/
def ByteWriteFails (s : State) (a : Word) (f : Fault) : Prop :=
  (s.kindOf a = .unmapped ∧ f = .unmappedWrite a) ∨ (s.kindOf a = .rom ∧ f = .romWrite a)

/-- One of the two bytes from the address on cannot be written; the reason is the first one's where neither can. -/
def WordWriteFails (s : State) (a : Word) (f : Fault) : Prop :=
  ByteWriteFails s a f ∨ (s.kindOf a = .ram ∧ ByteWriteFails s (a + 1#16) f)

/-- The byte lies in the window `[A+2, A+PC_AHEAD)` of the instruction at `s.pc` (R65). -/
def InFetchWindow (s : State) (x : Word) : Prop :=
  ∃ k : Nat, 2 ≤ k ∧ k < s.cfg.pcAhead.bytes ∧ x = s.pc + BitVec.ofNat 16 k

/-- The stale bytes after a store to the bytes `stored`: those before it, and of the stored ones those in the window
(R65). -/
def StoresStale (s t : State) (stored : List Word) : Prop :=
  ∀ x : Word, x ∈ t.stale ↔ x ∈ s.stale ∨ (x ∈ stored ∧ InFetchWindow s x)

/-- Where the handler of an exception number is (R217): at the address in slot VBR + 2 * number of the table, or at
VBR + stride * number. -/
def HandlerAt (s : State) (number handler : Word) : Prop :=
  match s.cfg.vectorMode with
  | .table => WordAt s (s.vbr + 2#16 * number) handler
  | .direct stride => handler = s.vbr + stride * number

/-- `t` is `s` with an exception entered (R215): the five steps, with EUR, VBR, r0 to r13 and memory as before. -/
def Entered (s t : State) (number ret handler : Word) : Prop :=
  t.epc = ret ∧ t.esr = s.sr ∧ t.enum = number ∧
    (∀ j : Nat, t.sr.getLsbD j = if j ≤ 1 then false else s.sr.getLsbD j) ∧ t.pc = handler ∧
    t.eur = s.eur ∧ t.vbr = s.vbr ∧ (∀ k : Fin 14, t.gpr k = s.gpr k) ∧ SameMemory s t ∧ t.stale = []

/-- The instruction completes by entering the exception of that number (R215). -/
def Raises (i : Instr) (s : State) (number ret handler : Word) : Prop :=
  ∃ t, exec i s = .next t ∧ Entered s t number ret handler ∧ SameEnvironment s t

/-- The count a register shift takes from the value of rB (R136). -/
def countOf (s : State) (b : Word) : Nat :=
  match s.cfg.shiftCountBits with
  | .four => b.toNat % 16
  | .five => b.toNat % 32
  | .sixteen => b.toNat

/-- C after a shift by `n` whose last bit shifted out is `last`: for `n` = 0 no bit is, and `SHIFT0_CARRY` decides
(R136). -/
def shiftCarry (s : State) (n : Nat) (last : Bool) : Option Bool :=
  if n = 0 then
    match s.cfg.shift0Carry with
    | .clear => some false
    | .unchanged => none
  else some last

/-- The main registers an instruction may write as its destination (R10, R26): rD of those that write it, both operands
of `swap`. -/
def destinations : Instr → List Reg
  | .ldim _ r | .ldimh _ r | .ini _ r | .addi _ r | .andi _ r | .ori _ r | .lsli _ r | .lsri _ r => [r]
  | .ld8 _ _ r | .ld16 _ _ r | .add _ _ r | .adc _ _ r | .and _ _ r | .or _ _ r | .xor _ _ r => [r]
  | .lsl _ _ r | .lsr _ _ r | .asr _ _ r | .mov _ r | .neg _ r | .not _ r | .call _ r | .inp _ r => [r]
  | .swap a r => [a, r]
  | .reti r | .getepc r | .getesr r | .geteur r | .getenum r | .getvbr r => [r]
  | _ => []

/-- The instruction, executed at `s`, transfers control: a taken branch, `call`, `reti`, a write to r14, or an exception
entry (R26, R65). -/
def transfers (i : Instr) (s : State) : Bool :=
  match i with
  | .bra _ => true
  | .beq _ => s.sr.getLsbD 2
  | .bne _ => !s.sr.getLsbD 2
  | .bmi _ => s.sr.getLsbD 4
  | .bpl _ => !s.sr.getLsbD 4
  | .bcs _ => s.sr.getLsbD 3
  | .bcc _ => !s.sr.getLsbD 3
  | .bgr _ => !s.sr.getLsbD 3 && !s.sr.getLsbD 2
  | .ble _ => s.sr.getLsbD 3 || s.sr.getLsbD 2
  | .call _ _ | .reti _ | .trap _ | .trapi _ => true
  | .invalidCc10 _ | .invalidCc11 _ | .invalidCc12 _ | .invalidCc13 _ | .invalidCc14 _ | .invalidCc15 _ => true
  | .invalidSub1D _ | .invalidSub1E _ | .invalidSub1F _ => true
  | i => (destinations i).contains .pc

/-- The words that raise the invalid instruction exception (R93). -/
def isInvalid : Instr → Bool
  | .invalidCc10 _ | .invalidCc11 _ | .invalidCc12 _ | .invalidCc13 _ | .invalidCc14 _ | .invalidCc15 _ => true
  | .invalidSub1D _ | .invalidSub1E _ | .invalidSub1F _ => true
  | _ => false

/-- The instructions that enter an exception (R210). -/
def entersException : Instr → Bool
  | .trap _ | .trapi _ => true
  | i => isInvalid i

/-- The instructions that return from one. -/
def isReti : Instr → Bool
  | .reti _ => true
  | _ => false

end Sys2Proof.Claims
end

