-- ==== Sys2Proof/Certificates/Slice0/Obligations.lean ====
section
/-! DEFINITION. The statements for the provers, from the rules of spec/. OBLIGATIONS.json lists them with their basis.
Where one rests on a parameter or a decision of the spec its docstring names the log entry under notes/assumptions. -/

open Sys2Proof Sys2Proof.Machine Sys2Proof.Claims

/-- For every choice of the tables ENC2 and ENC1 that gives every row one code and no code two rows, the spec's own
among them, and every instruction whose immediate is in the range the encoding admits, decodeWord of encode of it is
the instruction itself, with every operand at every value. The numbers of the 23 instructions from in to setvbr are
the spec's own choice (D11, D12; log entry 19), so the statement leaves them open. Derived from 30_encoding.md
sections 2 to 5; 92_eei_decisions.md D11, D12, D13, D14. -/
def Obligations.DecodeOfEncodeIsTheInstruction : Prop :=
  ∀ (cfg : Config) (i : Instr), cfg.encodingsAssigned = true → i.wf = true → decodeWord cfg (encode cfg i) = i

/-- For every choice of the tables ENC2 and ENC1 that gives every row one code and no code two rows, and every one of
the 65536 words, encode of decodeWord of it is the word: there are no don't-care bits and no must-be-zero fields in
any format (D11 to D14; log entries 19, 20, 25). Derived from 30_encoding.md section 5; 92_eei_decisions.md D11, D12,
D13, D14. -/
def Obligations.EncodeOfDecodeIsTheWord : Prop :=
  ∀ (cfg : Config) (w : Word), cfg.encodingsAssigned = true → encode cfg (decodeWord cfg w) = w

/-- Under any tables ENC2 and ENC1 and for every word, the instruction it decodes to meets the immediate ranges an
assembler must enforce. Derived from 30_encoding.md sections 4 and 6; 92_eei_decisions.md D14. -/
def Obligations.DecodedInstructionsAreWellFormed : Prop :=
  ∀ (cfg : Config) (w : Word), (decodeWord cfg w).wf = true

/-- Under any tables, a word decodes to one of the nine invalid groups exactly when bits 3:0 are 0xE and bits 15:12
above 9, or bits 3:0 are 0xF, bits 7:4 the code of the escape and bits 11:8 a code that ENC1 leaves unassigned; under
the spec's own tables (log entry 19) the latter are bits 7:0 = 0xFF and bits 11:8 = 0xD to 0xF. The second group is
the spec's decision D13 (log entry 20). Derived from 30_encoding.md sections 3 and 5; 60_exceptions.md section 1;
92_eei_decisions.md D11, D12, D13. -/
def Obligations.InvalidWordsAreTheTwoGroups : Prop :=
  (∀ (cfg : Config) (w : Word),
    isInvalid (decodeWord cfg w) = true ↔
      (w.toNat % 16 = 14 ∧ 9 < w.toNat / 4096) ∨
        (w.toNat % 16 = 15 ∧ 6 ≤ w.toNat / 16 % 16 ∧ cfg.enc2At (w.toNat / 16 % 16 - 6) = .escape ∧
          cfg.enc1At (w.toNat / 256 % 16) ∈ [Enc1Row.unassignedD, .unassignedE, .unassignedF])) ∧
    ∀ w : Word,
      isInvalid (decodeWord defaultConfig w) = true ↔
        (w.toNat % 16 = 14 ∧ 9 < w.toNat / 4096) ∨ (w.toNat % 256 = 255 ∧ 13 ≤ w.toNat / 256 % 16)

/-- 0x3126 is add r1, r2, r3; 0xED0F is mov r13, r14; 0x1800 is ldim -128, r1; 0x3122, 0x205E and 0xA05E decode as the
source's tables say. 0x18DF, 0x2F9F, 0xF2FF and 0xFFFF decode as the tables ENC2 and ENC1 of the default configuration
say, which are the spec's own choice and the model's with it (D11, D12, D13, D14; log entries 19, 20, 25), and those
tables give every row one code. Derived from 95_test_vectors.md sections 1.3 and 2; 30_encoding.md sections 2 and 3;
92_eei_decisions.md D11, D12, D13, D14. -/
def Obligations.WordsOfTheSpecDecode : Prop :=
  decodeWord defaultConfig 0x3126 = .add (.gpr 1) (.gpr 2) (.gpr 3) ∧
    decodeWord defaultConfig 0xED0F = .mov (.gpr 13) .pc ∧ decodeWord defaultConfig 0x1800 = .ldim (-128) (.gpr 1) ∧
    decodeWord defaultConfig 0x3122 = .ld8 (.gpr 1) (.gpr 2) (.gpr 3) ∧ decodeWord defaultConfig 0x205E = .beq 5 ∧
    decodeWord defaultConfig 0x18DF = .lsri 8 (.gpr 1) ∧ decodeWord defaultConfig 0x2F9F = .outi 15 (.gpr 2) ∧
    decodeWord defaultConfig 0xF2FF = .trapi 15 ∧ decodeWord defaultConfig 0xA05E = .invalidCc10 5 ∧
    decodeWord defaultConfig 0xFFFF = .invalidSub1F 15 ∧ defaultConfig.encodingsAssigned = true

/-- In a state whose memory is in canonical form, a byte write to an address in RAM is performed, the byte at the
address then holds the value, and every other byte reads as before. Formalises R53. -/
def Obligations.ByteStoreReplacesOneByte : Prop :=
  ∀ (s : State) (a : Word) (v : Byte), Memory.wf s.mem = true → s.kindOf a = .ram →
    ∃ t, memWrite8 s a v = .ok t ∧
      ∀ b : Word, Memory.read t.mem b.toNat = if b = a then some v else Memory.read s.mem b.toNat

/-- An aligned 16-bit write to RAM is performed; a byte read of either address then gives the byte the byte order puts
there, a 16-bit read of the address gives the word, and every other byte reads as before. The byte order is the
parameter of log entry 4. Derived from 20_memory.md section 1; 92_eei_decisions.md D4. -/
def Obligations.WordStoreThenReadsFollowTheByteOrder : Prop :=
  ∀ (s : State) (a w : Word), Memory.wf s.mem = true → a.toNat % 2 = 0 → s.kindOf a = .ram →
    s.kindOf (a + 1#16) = .ram →
    ∃ t, memWrite16 s a w = .ok t ∧ memRead16 t a = .ok w ∧
      (∃ lower upper : Byte, memRead8 t a = .ok lower ∧ memRead8 t (a + 1#16) = .ok upper ∧
        match s.cfg.byteOrder with
        | .big => lower.toNat = w.toNat / 256 ∧ upper.toNat = w.toNat % 256
        | .little => lower.toNat = w.toNat % 256 ∧ upper.toNat = w.toNat / 256) ∧
      ∀ b : Word, b ≠ a → b ≠ a + 1#16 → Memory.read t.mem b.toNat = Memory.read s.mem b.toNat

/-- A 16-bit access at an odd address, a read of one byte or of two at an even address where one of them is unmapped
or unwritten, and a write of one byte or of two at an even address where one of them is unmapped or in ROM have no
meaning: each is the model fault of its own name at the byte that is at fault, and nothing else. These are the spec's
decisions D5, D10 and D36 (log entries 14, 15, 16). Which byte the fault names where both are at fault, the one at the
lower address, is the model's choice (log entry 16 for reads, 15 for writes). Derived from 20_memory.md sections 1 to
3; 92_eei_decisions.md D5, D10, D36. -/
def Obligations.AccessesTheMapDoesNotAdmitFault : Prop :=
  ∀ (s : State) (a : Word) (v : Byte) (w : Word) (f : Fault),
    (a.toNat % 2 = 1 → memRead16 s a = .error (.misalignedRead a) ∧ memWrite16 s a w = .error (.misalignedWrite a)) ∧
    (ByteReadFails s a f → memRead8 s a = .error f) ∧ (ByteWriteFails s a f → memWrite8 s a v = .error f) ∧
    (a.toNat % 2 = 0 → (WordReadFails s a f → memRead16 s a = .error f) ∧
      (WordWriteFails s a f → memWrite16 s a w = .error f))

/-- While the instruction at A executes, naming r14 as a source yields A + PC_AHEAD modulo 2^16 (4 in the default
configuration), r15 all 16 bits of SR, and any other register its value. After a write of a value to one of r0 to r13
or r15, naming it yields that value and naming any other register what it did before; a write to r14 makes the value
the address of the next instruction and leaves what naming every other register yields. PC_AHEAD is the parameter of
log entry 3. Derived from 10_state.md sections 1 to 3; 92_eei_decisions.md D1, D18. -/
def Obligations.NamingARegisterReadsItsValue : Prop :=
  (∀ s : State,
    (∀ k : Fin 14, s.read (.gpr k) = s.gpr k) ∧ s.read .sr = s.sr ∧
    (s.read .pc).toNat = (s.pc.toNat + s.cfg.pcAhead.bytes) % 65536) ∧
  (∀ (s : State) (r q : Reg) (v : Word), r ≠ .pc →
    (s.write r v).read r = v ∧ (q ≠ r → (s.write r v).read q = s.read q)) ∧
  (∀ (s : State) (q : Reg) (v : Word), (s.write .pc v).pc = v ∧ (q ≠ .pc → (s.write .pc v).read q = s.read q)) ∧
  defaultConfig.pcAhead.bytes = 4

/-- Where no interrupt is accepted at the boundary, pc is even and neither byte at it is stale or unreadable, and those
bytes decode to i, the step is exec of i on the same state with this boundary's request lines used up. Derived from
20_memory.md section 3; 60_exceptions.md section 3; 92_eei_decisions.md D4, D23. -/
def Obligations.StepRunsTheDecodedInstruction : Prop :=
  ∀ (s : State) (lower upper : Byte) (i : Instr), s.acceptedIrq = none → s.pc.toNat % 2 = 0 →
    s.pc ∉ s.stale → s.pc + 1#16 ∉ s.stale → memRead8 s s.pc = .ok lower → memRead8 s (s.pc + 1#16) = .ok upper →
    decode s.cfg [lower, upper] = .ok (i, []) →
    step s = exec i { s with irqIn := s.irqIn.tail }

/-- Where no interrupt is accepted, a step at an odd pc is the misaligned-fetch fault; at an even pc with one of its
two bytes stale it is the stale-fetch fault; at an even pc with neither stale and one of them unmapped or unwritten it
is the fault of that name. A str8 or str16 at A that completes makes stale every byte it stores in the window [A+2,
A+PC_AHEAD); where that byte is in the word at A + 2, the next step, with no interrupt accepted and A even, is the
stale-fetch fault. How long a byte stays stale is StaleBytesLastUntilAControlTransfer. Decisions D3, D10, D29 and D36
(log entries 14 to 17); that the stale fault is named before the others is the model's choice (log entry 17). Derived
from 10_state.md section 2; 20_memory.md sections 1, 3 and 5; 92_eei_decisions.md D3, D10, D29, D36. -/
def Obligations.FetchWithoutMeaningFaults : Prop :=
  (∀ (s : State) (f : Fault), s.acceptedIrq = none →
    (s.pc.toNat % 2 = 1 → step s = .fault (.misalignedFetch s.pc)) ∧
    (s.pc.toNat % 2 = 0 → s.pc ∈ s.stale ∨ s.pc + 1#16 ∈ s.stale → step s = .fault (.staleFetch s.pc)) ∧
    (s.pc.toNat % 2 = 0 → s.pc ∉ s.stale → s.pc + 1#16 ∉ s.stale → WordReadFails s s.pc f → step s = .fault f)) ∧
    ∀ (s t : State) (rA rB rD : Reg) (x : Word), InFetchWindow s x →
      (exec (.str8 rA rB rD) s = .next t ∧ x = s.effectiveAddress rA rB) ∨
        (exec (.str16 rA rB rD) s = .next t ∧
          (x = s.effectiveAddress rA rB ∨ x = s.effectiveAddress rA rB + 1#16)) →
      x ∈ t.stale ∧
        (s.pc.toNat % 2 = 0 → t.acceptedIrq = none → x = s.pc + 2#16 ∨ x = s.pc + 3#16 →
          step t = .fault (.staleFetch (s.pc + 2#16)))

/-- Where one of the two interrupts is requested and its enable bit set, and the other is not or gives way to it by
IRQ_PRIORITY, and its handler can be found, the step enters it: EPC is the pc of the boundary, ESR the old SR, ENUM
its number, SR[1:0] cleared, and the environment is told. Numbers, vector form and priority are parameters (log
entries 9 to 12). Derived from 60_exceptions.md sections 2 and 3; 92_eei_decisions.md D20, D21, D22, D23. -/
def Obligations.RequestedEnabledInterruptIsEntered : Prop :=
  ∀ (s : State) (l : IrqLines) (rest : List IrqLines) (handler : Word), s.irqIn = l :: rest →
    (l.irq0 = true → s.sr.getLsbD 0 = true →
      (s.cfg.irqPriority = .int0First ∨ l.irq1 = false ∨ s.sr.getLsbD 1 = false) →
      HandlerAt s s.cfg.vecInt0 handler →
      ∃ t, step s = .next t ∧ Entered s t s.cfg.vecInt0 s.pc handler ∧ t.irqIn = rest ∧ t.ioIn = s.ioIn ∧
        t.events = s.events ++ [.irqAck .int0] ∧ t.draws = s.draws ∧ t.cfg = s.cfg) ∧
    (l.irq1 = true → s.sr.getLsbD 1 = true →
      (s.cfg.irqPriority = .int1First ∨ l.irq0 = false ∨ s.sr.getLsbD 0 = false) →
      HandlerAt s s.cfg.vecInt1 handler →
      ∃ t, step s = .next t ∧ Entered s t s.cfg.vecInt1 s.pc handler ∧ t.irqIn = rest ∧ t.ioIn = s.ioIn ∧
        t.events = s.events ++ [.irqAck .int1] ∧ t.draws = s.draws ∧ t.cfg = s.cfg)

/-- If a step from any state adds the acknowledgement of interrupt n to what the environment has been told, then n was
requested at that boundary and its enable bit in SR was set; no instruction acknowledges one. Derived from
60_exceptions.md section 3. -/
def Obligations.OnlyRequestedEnabledInterruptsAreTaken : Prop :=
  ∀ (s t : State) (n : Irq) (es : List Event), step s = .next t → t.events = s.events ++ es → .irqAck n ∈ es →
    ∃ l rest, s.irqIn = l :: rest ∧
      match n with
      | .int0 => l.irq0 = true ∧ s.sr.getLsbD 0 = true
      | .int1 => l.irq1 = true ∧ s.sr.getLsbD 1 = true

/-- For every state that meets State.Inv (memory in canonical form; every stale byte at most PC_AHEAD - 3 bytes past
pc), whatever the machine runs, a step that answers a next state answers one that meets it. The canonical form and
the stale list are the model's (log entries 16, 17). Derived from 20_memory.md sections 1 and 5; 92_eei_decisions.md
D29. -/
def Obligations.EveryStepKeepsTheInvariant : Prop :=
  ∀ s t : State, s.Inv → step s = .next t → t.Inv

/-- State.Inv holds of State.reset, and of the state after reset with any other parameters. Derived from 10_state.md
section 8; 92_eei_decisions.md D26. -/
def Obligations.ResetMeetsTheInvariant : Prop :=
  State.reset.Inv ∧ ∀ cfg : Config, (State.resetWith cfg).Inv

/-- After reset with any parameters pc = RESET_PC, SR = RESET_SR, nothing is requested, and where SR[1:0] = 0 no
request whatever is accepted at the first boundary; State.reset is the case of the default parameters, pc = 0x0000 and
SR = 0x0000. The two values are the parameters of log entry 13. That no byte of memory holds a value, ROM included, is
the model's choice: no program is placed and an unlisted byte has no value (log entries 16 and 30), where the spec's
table says that ROM holds the cartridge image. Derived from 10_state.md section 8; 70_reset_and_hazards.md section 1;
92_eei_decisions.md D26. -/
def Obligations.ResetGivesPcAndSrAndNothingWritten : Prop :=
  (∀ cfg : Config,
    (State.resetWith cfg).pc = cfg.resetPc ∧ (State.resetWith cfg).sr = cfg.resetSr ∧ (State.resetWith cfg).cfg = cfg ∧
    (State.resetWith cfg).irqIn = [] ∧ (State.resetWith cfg).events = [] ∧ (State.resetWith cfg).stale = [] ∧
    (∀ a : Nat, Memory.read (State.resetWith cfg).mem a = none) ∧
    (cfg.resetSr.getLsbD 0 = false → cfg.resetSr.getLsbD 1 = false →
      ∀ ls : List IrqLines, State.acceptedIrq { State.resetWith cfg with irqIn := ls } = none)) ∧
    State.reset = State.resetWith defaultConfig ∧ defaultConfig.resetPc = 0x0000#16 ∧ defaultConfig.resetSr = 0x0000#16

/-- From every state that meets the invariant, a step that answers a next state leaves every byte outside RAM, cartridge
ROM among them, and the whole configuration as they were. MEMMAP is the parameter of log entry 15. Derived from
00_scope.md section 5; 20_memory.md section 3; 92_eei_decisions.md D10. -/
def Obligations.StepsLeaveRomAndParametersAlone : Prop :=
  ∀ s t : State, s.Inv → step s = .next t →
    t.cfg = s.cfg ∧ ∀ a : Word, s.kindOf a ≠ .ram → Memory.read t.mem a.toNat = Memory.read s.mem a.toNat

/-- If a byte of memory reads differently after a step, no interrupt was accepted at its boundary and the word it
fetched decodes to str8 or str16: no other instruction, no exception entry and no interrupt writes memory. That entry
writes no more than its registers is decision D22 (log entry 21). Derived from 20_memory.md section 4;
60_exceptions.md section 2; 92_eei_decisions.md D22. -/
def Obligations.OnlyStoresChangeMemory : Prop :=
  ∀ (s t : State) (a : Nat), step s = .next t → Memory.read t.mem a ≠ Memory.read s.mem a →
    s.acceptedIrq = none ∧ ∃ w rA rB rD, fetchWord s = .ok w ∧
      (decodeWord s.cfg w = .str8 rA rB rD ∨ decodeWord s.cfg w = .str16 rA rB rD)

/-- If EUR differs after a step, no interrupt was accepted at its boundary and the word it fetched decodes to seteur;
if VBR does, to setvbr. No exception entry, interrupt or return writes either (decision D22, log entry 21). Derived
from 10_state.md section 4; 92_eei_decisions.md D21, D22. -/
def Obligations.EurAndVbrChangeOnlyByTheirSetInstructions : Prop :=
  ∀ s t : State, step s = .next t →
    (t.eur ≠ s.eur → s.acceptedIrq = none ∧ ∃ w rD, fetchWord s = .ok w ∧ decodeWord s.cfg w = .seteur rD) ∧
    (t.vbr ≠ s.vbr → s.acceptedIrq = none ∧ ∃ w rD, fetchWord s = .ok w ∧ decodeWord s.cfg w = .setvbr rD)

/-- If an instruction that does not have r15 as a destination, enters no exception and is not reti completes, SR bits
1:0 and 15:5 are as they were: no flag update touches them. Derived from 10_state.md section 3; 60_exceptions.md
sections 2 and 3. -/
def Obligations.EnablesChangeOnlyBySrWritesEntryAndReturn : Prop :=
  ∀ (i : Instr) (s t : State), exec i s = .next t → .sr ∉ destinations i → entersException i = false →
    isReti i = false → ∀ j : Nat, j < 2 ∨ 4 < j → t.sr.getLsbD j = s.sr.getLsbD j

/-- If one of r0 to r13 differs after a step, no interrupt was accepted at its boundary and the word it fetched
decodes to an instruction that names that register as a destination. That exception and interrupt entry leave r0 to
r13 alone is decision D22 (log entry 21). Derived from 00_scope.md section 6; 10_state.md section 1; 60_exceptions.md
section 2; 92_eei_decisions.md D22. -/
def Obligations.GeneralRegistersChangeOnlyAsDestinations : Prop :=
  ∀ (s t : State) (k : Fin 14), step s = .next t → t.gpr k ≠ s.gpr k →
    s.acceptedIrq = none ∧ ∃ w, fetchWord s = .ok w ∧ .gpr k ∈ destinations (decodeWord s.cfg w)

/-- For every step that answers a next state, what the environment has been told is what it had been told before with at
most one event after it. Derived from 20_memory.md sections 5 and 6; 60_exceptions.md section 6; 92_eei_decisions.md
D27, D28. -/
def Obligations.EventsAreRecordedInProgramOrder : Prop :=
  ∀ s t : State, step s = .next t → ∃ es : List Event, t.events = s.events ++ es ∧ es.length ≤ 1

/-- For every immediate -128 to 127 and every rD, the word with rD in 15:12, the immediate in 11:4 and 0x0 in 3:0
decodes to ldim, and it completes with the 16-bit value of that signed number in rD (a jump where rD is r14, all of
SR where it is r15), no flag, register, memory or exception register changed otherwise. Formalises R111. -/
def Obligations.LdimLoadsTheSignExtendedImmediate : Prop :=
  ∀ (im : Int) (rD : Reg) (s : State), -128 ≤ im → im ≤ 127 →
    decodeWord s.cfg (nibbleOfReg rD ++ BitVec.ofInt 8 im ++ 0x0#4) = .ldim im rD ∧
    ∃ v : Word, v.toInt = im ∧ Yields (.ldim im rD) s rD v

/-- For every immediate 0 to 255 and every rD, ldimh completes with rD holding the immediate above the low byte that
naming rD as a source yields, and nothing else changed. That bits 7:0 are kept is decision D8 (log entry 22).
Derived from 40_load_immediate.md (ldimh); 92_eei_decisions.md D8. -/
def Obligations.LdimhReplacesTheHighByte : Prop :=
  ∀ (im : Nat) (rD : Reg) (s : State), im ≤ 255 →
    ∃ v : Word, v.toNat = im * 256 + (s.read rD).toNat % 256 ∧ Yields (.ldimh im rD) s rD v

/-- For every word and every general register, ldim of the low byte (as a signed number) and then ldimh of the high byte
both complete and leave the word in the register, SR and every other general register as they were. Derived from
40_load_immediate.md (ldimh); 30_encoding.md section 6; 92_eei_decisions.md D8. -/
def Obligations.LdimThenLdimhLoadsAnyConstant : Prop :=
  ∀ (w : Word) (k : Fin 14) (s : State), ∃ t u,
    exec (.ldim (w.extractLsb' 0 8).toInt (.gpr k)) s = .next t ∧
    exec (.ldimh (w.toNat / 256) (.gpr k)) t = .next u ∧
    u.gpr k = w ∧ u.sr = s.sr ∧ u.pc = s.pc + 4#16 ∧ ∀ j : Fin 14, j ≠ k → u.gpr j = s.gpr j

/-- Where the byte at (rA + rB) mod 2^16 is mapped and written, ld8 completes with it in bits 7:0 of rD and bits 15:8
zero, its sign, or rD's old ones, as LD8_EXTEND says (log entry 5); where the address is even and both bytes
readable, ld16 completes with the word in the byte order. No flag, memory byte or other register changes. Derived
from 41_load_store.md; 92_eei_decisions.md D4, D5, D6, D9. -/
def Obligations.LoadsBringTheAddressedDataToRd : Prop :=
  ∀ (rA rB rD : Reg) (s : State) (a : Word), a.toNat = ((s.read rA).toNat + (s.read rB).toNat) % 65536 →
    (∀ b : Byte, s.kindOf a ≠ .unmapped → Memory.read s.mem a.toNat = some b →
      ∃ v : Word, Yields (.ld8 rA rB rD) s rD v ∧
        match s.cfg.ld8Extend with
        | .zero => v.toNat = b.toNat
        | .sign => v.toInt = b.toInt
        | .keep => v.toNat = (s.read rD).toNat / 256 * 256 + b.toNat) ∧
    ∀ w : Word, WordAt s a w → Yields (.ld16 rA rB rD) s rD w

/-- In a state that meets the invariant, where the address s.effectiveAddress rA rB = (rA + rB) mod 2^16 is RAM, str8
completes with the low byte of rD there and every other byte as before; where it is even and both its bytes RAM, str16
completes with rD there in the byte order and every byte but those two as before. The stale bytes are those before it
and, of the stored ones, those in the window [A+2, A+PC_AHEAD) (log entry 17). No register, flag or exception register
changes, and the next instruction is at A + 2. Derived from 41_load_store.md; 20_memory.md sections 1 and 5;
92_eei_decisions.md D4, D5, D7, D9, D10, D29. -/
def Obligations.StoresWriteTheAddressedBytesAlone : Prop :=
  ∀ (rA rB rD : Reg) (s : State) (a : Word), s.Inv → a = s.effectiveAddress rA rB →
    a.toNat = ((s.read rA).toNat + (s.read rB).toNat) % 65536 ∧
    (s.kindOf a = .ram →
      ∃ t, exec (.str8 rA rB rD) s = .next t ∧
        (∃ b : Byte, Memory.read t.mem a.toNat = some b ∧ b.toNat = (s.read rD).toNat % 256) ∧
        (∀ x : Nat, x ≠ a.toNat → Memory.read t.mem x = Memory.read s.mem x) ∧ StoresStale s t [a] ∧
        (∀ k : Fin 14, t.gpr k = s.gpr k) ∧ t.pc = s.pc + 2#16 ∧ t.sr = s.sr ∧
        SameExceptionRegs s t ∧ SameEnvironment s t) ∧
    (a.toNat % 2 = 0 → s.kindOf a = .ram → s.kindOf (a + 1#16) = .ram →
      ∃ t, exec (.str16 rA rB rD) s = .next t ∧ WordAt t a (s.read rD) ∧
        (∀ x : Nat, x ≠ a.toNat → x ≠ (a + 1#16).toNat → Memory.read t.mem x = Memory.read s.mem x) ∧
        StoresStale s t [a, a + 1#16] ∧
        (∀ k : Fin 14, t.gpr k = s.gpr k) ∧ t.pc = s.pc + 2#16 ∧ t.sr = s.sr ∧
        SameExceptionRegs s t ∧ SameEnvironment s t)

/-- ld16 and str16 at an odd effective address stop with the misaligned fault; ld8 of a byte, and ld16 of an even word
one of whose bytes is unmapped or unwritten, with the fault of that name; str8 of a byte, and str16 of an even word
one of whose bytes is unmapped or in ROM, with the fault of that name. Decisions D5, D10 and D36 (log entries 14, 15,
16). Which byte the fault names where both are at fault, the one at the lower address, is the model's choice (log
entries 15 and 16). Derived from 41_load_store.md; 20_memory.md sections 2 and 3; 92_eei_decisions.md D5, D10, D36. -/
def Obligations.LoadsAndStoresFaultWhereTheAccessHasNoMeaning : Prop :=
  ∀ (rA rB rD : Reg) (s : State) (a : Word) (f : Fault), a = s.effectiveAddress rA rB →
    (a.toNat % 2 = 1 → exec (.ld16 rA rB rD) s = .fault (.misalignedRead a) ∧
      exec (.str16 rA rB rD) s = .fault (.misalignedWrite a)) ∧
    (ByteReadFails s a f → exec (.ld8 rA rB rD) s = .fault f) ∧
    (ByteWriteFails s a f → exec (.str8 rA rB rD) s = .fault f) ∧
    (a.toNat % 2 = 0 → WordReadFails s a f → exec (.ld16 rA rB rD) s = .fault f) ∧
    (a.toNat % 2 = 0 → WordWriteFails s a f → exec (.str16 rA rB rD) s = .fault f)

/-- For every rA, rB and rD, add completes with (rA + rB) mod 2^16 in rD and adc with (rA + rB + C) mod 2^16; C is 1
exactly where the exact sum is 2^16 or more, N and Z come from the result, I1, I0 and bits 15:5 stay, and nothing
else changes. Where rD is r15 the order of result and flags is decision D17 (log entry 8). Derived from
42_alu_register.md; 92_eei_decisions.md D17. -/
def Obligations.AddAndAdcWriteTheSumAndItsCarry : Prop :=
  ∀ (rA rB rD : Reg) (s : State),
    (let sum := (s.read rA).toNat + (s.read rB).toNat
     YieldsWithFlags (.add rA rB rD) s rD (BitVec.ofNat 16 sum) (some (decide (65536 ≤ sum)))) ∧
    (let sum := (s.read rA).toNat + (s.read rB).toNat + (flagC s.sr).toNat
     YieldsWithFlags (.adc rA rB rD) s rD (BitVec.ofNat 16 sum) (some (decide (65536 ≤ sum))))

/-- For every operand, and, or, xor and not complete with the result whose every bit is that operation of the operands'
bits, N and Z from it, C and the other bits of SR as they were, and nothing else changed. Where rD is r15 the order
of result and flags is decision D17 (log entry 8). Derived from 42_alu_register.md; 44_two_operand.md (not);
92_eei_decisions.md D17. -/
def Obligations.LogicInstructionsLeaveCarry : Prop :=
  ∀ (rA rB rD : Reg) (s : State),
    (∃ v : Word, (∀ j : Nat, v.getLsbD j = ((s.read rA).getLsbD j && (s.read rB).getLsbD j)) ∧
      YieldsWithFlags (.and rA rB rD) s rD v none) ∧
    (∃ v : Word, (∀ j : Nat, v.getLsbD j = ((s.read rA).getLsbD j || (s.read rB).getLsbD j)) ∧
      YieldsWithFlags (.or rA rB rD) s rD v none) ∧
    (∃ v : Word, (∀ j : Nat, v.getLsbD j = ((s.read rA).getLsbD j ^^ (s.read rB).getLsbD j)) ∧
      YieldsWithFlags (.xor rA rB rD) s rD v none) ∧
    (∃ v : Word, v.toNat + (s.read rA).toNat = 65535 ∧ YieldsWithFlags (.not rA rD) s rD v none)

/-- For every rA, rB and rD, with n the count SHIFT_COUNT_BITS takes from rB, lsl completes with rA * 2^n mod 2^16 in rD
and C bit 16 of the exact product; for n = 0, where no bit is shifted out, C is as SHIFT0_CARRY says (decision D16,
log entry 7). N and Z come from the result. Derived from 42_alu_register.md (lsl); 92_eei_decisions.md D16, D17. -/
def Obligations.LslIsExact : Prop :=
  ∀ (rA rB rD : Reg) (s : State) (n : Nat), n = countOf s (s.read rB) →
    YieldsWithFlags (.lsl rA rB rD) s rD (BitVec.ofNat 16 ((s.read rA).toNat * 2 ^ n))
      (shiftCarry s n (decide ((s.read rA).toNat * 2 ^ n / 65536 % 2 = 1)))

/-- For every rA, rB and rD, with n the count taken from rB, lsr completes with rA / 2^n (unsigned, rounded down) in rD
and C the bit last shifted out, bit n - 1 of rA; for n = 0 C is as SHIFT0_CARRY says (decision D16, log entry 7).
Derived from 42_alu_register.md (lsr); 92_eei_decisions.md D16, D17. -/
def Obligations.LsrIsExact : Prop :=
  ∀ (rA rB rD : Reg) (s : State) (n : Nat), n = countOf s (s.read rB) →
    YieldsWithFlags (.lsr rA rB rD) s rD (BitVec.ofNat 16 ((s.read rA).toNat / 2 ^ n))
      (shiftCarry s n (decide ((s.read rA).toNat / 2 ^ (n - 1) % 2 = 1)))

/-- For every rA, rB and rD, with n the count taken from rB, asr completes with the signed value of rA divided by 2^n
and rounded toward minus infinity, and C the bit last shifted out (the sign for n of 16 and more); for n = 0 C is as
SHIFT0_CARRY says (decision D16, log entry 7). Derived from 42_alu_register.md (asr); 92_eei_decisions.md D16, D17. -/
def Obligations.AsrIsFloorDivision : Prop :=
  ∀ (rA rB rD : Reg) (s : State) (n : Nat), n = countOf s (s.read rB) →
    ∃ v : Word, v.toInt = (s.read rA).toInt / 2 ^ n ∧
      YieldsWithFlags (.asr rA rB rD) s rD v
        (shiftCarry s n (decide ((s.read rA).toInt / 2 ^ (n - 1) % 2 = 1)))

/-- For general registers with the low sum's register none of the high operands' and not the high sum's, add then adc
both complete and leave in the two destinations the 32-bit sum modulo 2^32, with C its carry out. Derived from
42_alu_register.md (adc); 95_test_vectors.md P5. -/
def Obligations.AddThenAdcAddsDoubleWords : Prop :=
  ∀ (a0 a1 b0 b1 d0 d1 : Fin 14) (s : State), d0 ≠ a1 → d0 ≠ b1 → d0 ≠ d1 →
    ∃ t u, exec (.add (.gpr a0) (.gpr b0) (.gpr d0)) s = .next t ∧
      exec (.adc (.gpr a1) (.gpr b1) (.gpr d1)) t = .next u ∧
      let sum := (s.gpr a1).toNat * 65536 + (s.gpr a0).toNat + ((s.gpr b1).toNat * 65536 + (s.gpr b0).toNat)
      (u.gpr d1).toNat * 65536 + (u.gpr d0).toNat = sum % 2 ^ 32 ∧ flagC u.sr = decide (2 ^ 32 ≤ sum)

/-- For every offset -128 to 127, the word with the condition in 15:12, the offset in 11:4 and 0xE in 3:0 decodes to the
branch; bra always, brf never, beq where Z is 1, bne where Z is 0, bmi where N is 1 and bpl where N is 0 goes to A +
PC_AHEAD + twice the offset, and otherwise to A + 2. No flag, register, memory byte or exception register changes.
Formalises R152, R153, R154, R155, R156, R157. -/
def Obligations.FlagBranchesGoWhereTheirConditionSays : Prop :=
  ∀ (off : Int) (s : State), -128 ≤ off → off ≤ 127 →
    (decodeWord s.cfg (0x0#4 ++ BitVec.ofInt 8 off ++ 0xE#4) = .bra off ∧ BranchesIf (.bra off) s true off) ∧
    (decodeWord s.cfg (0x1#4 ++ BitVec.ofInt 8 off ++ 0xE#4) = .brf off ∧ BranchesIf (.brf off) s false off) ∧
    (decodeWord s.cfg (0x2#4 ++ BitVec.ofInt 8 off ++ 0xE#4) = .beq off ∧ BranchesIf (.beq off) s (s.sr.getLsbD 2) off) ∧
    (decodeWord s.cfg (0x3#4 ++ BitVec.ofInt 8 off ++ 0xE#4) = .bne off ∧ BranchesIf (.bne off) s (!s.sr.getLsbD 2) off) ∧
    (decodeWord s.cfg (0x4#4 ++ BitVec.ofInt 8 off ++ 0xE#4) = .bmi off ∧ BranchesIf (.bmi off) s (s.sr.getLsbD 4) off) ∧
    (decodeWord s.cfg (0x5#4 ++ BitVec.ofInt 8 off ++ 0xE#4) = .bpl off ∧ BranchesIf (.bpl off) s (!s.sr.getLsbD 4) off)

/-- For every offset -128 to 127, bcs goes to A + PC_AHEAD + 2 * off8 where C is 1, bcc where C is 0, bgr where C and
Z are 0, ble where C or Z is 1, else to A + 2, and their words decode to them. After any cmp or cmpi that completes,
with d the value of rD and m that of the other operand (the immediate as a 16-bit word), C is 1 exactly where d is
below m and Z exactly where they are equal, unsigned: bcs is taken where d < m, bcc where d >= m, bgr where d > m, ble
where d <= m. That bcc is taken where C is 0 and that C after cmp and cmpi is the borrow are the resolutions of
90_conflicts.md C2 and C3, which the model deduces with it (log entry 35). Derived from 43_branch.md (bcs, bcc, bgr,
ble); 44_two_operand.md (cmp); 46_alu_immediate.md (cmpi); 90_conflicts.md C2, C3. -/
def Obligations.CarryBranchesDecideUnsignedComparisons : Prop :=
  ∀ (off : Int) (s : State), -128 ≤ off → off ≤ 127 →
    (decodeWord s.cfg (0x6#4 ++ BitVec.ofInt 8 off ++ 0xE#4) = .bcs off ∧ BranchesIf (.bcs off) s (s.sr.getLsbD 3) off) ∧
    (decodeWord s.cfg (0x7#4 ++ BitVec.ofInt 8 off ++ 0xE#4) = .bcc off ∧ BranchesIf (.bcc off) s (!s.sr.getLsbD 3) off) ∧
    (decodeWord s.cfg (0x8#4 ++ BitVec.ofInt 8 off ++ 0xE#4) = .bgr off ∧
      BranchesIf (.bgr off) s (!s.sr.getLsbD 3 && !s.sr.getLsbD 2) off) ∧
    (decodeWord s.cfg (0x9#4 ++ BitVec.ofInt 8 off ++ 0xE#4) = .ble off ∧
      BranchesIf (.ble off) s (s.sr.getLsbD 3 || s.sr.getLsbD 2) off) ∧
    ∀ (i : Instr) (rD : Reg) (m : Word) (t : State),
      (∃ rA, i = .cmp rA rD ∧ m = s.read rA) ∨ (∃ im : Int, i = .cmpi im rD ∧ m = BitVec.ofInt 16 im) →
      exec i s = .next t →
      BranchesIf (.bcs off) t (decide ((s.read rD).toNat < m.toNat)) off ∧
      BranchesIf (.bcc off) t (decide ((s.read rD).toNat ≥ m.toNat)) off ∧
      BranchesIf (.bgr off) t (decide ((s.read rD).toNat > m.toNat)) off ∧
      BranchesIf (.ble off) t (decide ((s.read rD).toNat ≤ m.toNat)) off

/-- For every rA and rD, the word rD << 12 | rA << 8 | 0x0F decodes to mov, and it completes with the value naming rA
yields in rD: the next instruction's address where rD is r14, all 16 bits of SR where it is r15, nothing else
changed. Formalises R166. -/
def Obligations.MovCopiesRaToRd : Prop :=
  ∀ (rA rD : Reg) (s : State),
    decodeWord s.cfg (nibbleOfReg rD ++ nibbleOfReg rA ++ 0x0F#8) = .mov rA rD ∧ Yields (.mov rA rD) s rD (s.read rA)

/-- For every rA and rD, neg completes with (2^16 - rA) mod 2^16 in rD and N and Z from it; C is 1 exactly where rA is
not 0 under the borrow reading and exactly where it is 0 under the adder reading (decision D15, log entry 6).
Derived from 44_two_operand.md (neg); 92_eei_decisions.md D15, D17. -/
def Obligations.NegWritesTheTwosComplement : Prop :=
  ∀ (rA rD : Reg) (s : State),
    YieldsWithFlags (.neg rA rD) s rD (BitVec.ofNat 16 (65536 - (s.read rA).toNat))
      (some (match s.cfg.negCarry with
        | .borrow => decide ((s.read rA).toNat ≠ 0)
        | .adder => decide ((s.read rA).toNat = 0)))

/-- For every rA and rD, the word rD << 12 | rA << 8 | 0x3F decodes to cmp, and it completes with N bit 15 of (rD -
rA) mod 2^16, Z exactly where rD = rA, C exactly where rD is below rA unsigned, I1, I0 and bits 15:5 of SR as before,
and nothing else changed. That C is the borrow is the resolution of 90_conflicts.md C3, which the model deduces with
it (log entry 35). Derived from 44_two_operand.md (cmp); 90_conflicts.md C3. -/
def Obligations.CmpSetsFlagsFromTheDifference : Prop :=
  ∀ (rA rD : Reg) (s : State),
    decodeWord s.cfg (nibbleOfReg rD ++ nibbleOfReg rA ++ 0x3F#8) = .cmp rA rD ∧
    Compares (.cmp rA rD) s (BitVec.ofNat 16 ((s.read rD).toNat + 65536 - (s.read rA).toNat))
      (decide ((s.read rD).toNat < (s.read rA).toNat))

/-- For every rA and rD, call completes with pc the value naming rA yields, read before the link is written, and A + 2
in rD where it is one of r0 to r13, in SR where it is r15, nowhere where it is r14; nothing else changes. That the
target wins over the link for rD = r14 is decision D19 (log entry 23). Derived from 44_two_operand.md (call);
92_eei_decisions.md D2, D19. -/
def Obligations.CallLinksAndJumps : Prop :=
  ∀ (rA rD : Reg) (s : State), ∃ t, exec (.call rA rD) s = .next t ∧ t.pc = s.read rA ∧ t.stale = [] ∧
    (∀ k : Fin 14, t.gpr k = if rD = .gpr k then s.pc + 2#16 else s.gpr k) ∧
    SrWritten s t rD (s.pc + 2#16) ∧ Quiet s t

/-- For every rA and rD, swap completes with each general register it names holding what naming the other yields, pc the
value of the other where one is r14 (a jump), SR the other's where one is r15; nothing else changes. Where both name
one register the last write wins, decision D19 (log entry 23). Derived from 44_two_operand.md (swap);
92_eei_decisions.md D19. -/
def Obligations.SwapExchangesTwoRegisters : Prop :=
  ∀ (rA rD : Reg) (s : State), ∃ t, exec (.swap rA rD) s = .next t ∧
    (∀ k : Fin 14, t.gpr k = if rD = .gpr k then s.read rA else if rA = .gpr k then s.read rD else s.gpr k) ∧
    (t.pc = if rD = .pc then s.read rA else if rA = .pc then s.read rD else s.pc + 2#16) ∧
    (t.sr = if rD = .sr then s.read rA else if rA = .sr then s.read rD else s.sr) ∧
    (t.stale = if rD = .pc ∨ rA = .pc then [] else s.stale) ∧ Quiet s t

/-- For general registers with the scratch register not rA, neg then add both complete with (rA - rB) mod 2^16 in the
destination and C equal to 1 exactly where rB is not 0 and rA is not below rB. Derived from 44_two_operand.md (neg);
42_alu_register.md; 30_encoding.md section 6. -/
def Obligations.NegThenAddSubtracts : Prop :=
  ∀ (a b x d : Fin 14) (s : State), x ≠ a → ∃ t u,
    exec (.neg (.gpr b) (.gpr x)) s = .next t ∧ exec (.add (.gpr a) (.gpr x) (.gpr d)) t = .next u ∧
    u.gpr d = s.gpr a - s.gpr b ∧
    flagC u.sr = decide ((s.gpr b).toNat ≠ 0 ∧ (s.gpr b).toNat ≤ (s.gpr a).toNat)

/-- For every port (the whole of rA for in, the immediate 0 to 15 for ini) and every rD, the instruction completes. From
the port of an absent serial port the value is 0xFFFF, with nothing used up or recorded; otherwise it is the answer
lined up, or where none is the free value Config.ioDraw at the next draw number, recorded as an input event. No
flag, memory byte or exception register changes. The free value is log entry 2, the absent port log entry 18.
Derived from 45_io.md; 20_memory.md section 6; 92_eei_decisions.md D11, D27. -/
def Obligations.IoReadsTakeTheEnvironmentsAnswer : Prop :=
  ∀ (i : Instr) (port : Word) (rD : Reg) (s : State),
    (∃ rA, i = .inp rA rD ∧ port = s.read rA) ∨ (∃ im : Nat, im ≤ 15 ∧ i = .ini im rD ∧ port.toNat = im) →
    ∃ t v, exec i s = .next t ∧ Writes s t rD v ∧ SrWritten s t rD v ∧ SameExceptionRegs s t ∧ SameMemory s t ∧
      t.irqIn = s.irqIn ∧ t.cfg = s.cfg ∧
      if s.cfg.serialPresent = false ∧ port = s.cfg.serialPort then
        v = 0xFFFF#16 ∧ t.ioIn = s.ioIn ∧ t.draws = s.draws ∧ t.events = s.events
      else
        t.events = s.events ++ [.ioRead port v] ∧
          match s.ioIn with
          | x :: rest => v = x ∧ t.ioIn = rest ∧ t.draws = s.draws
          | [] => v = Config.ioDraw s.draws port ∧ t.ioIn = [] ∧ t.draws = s.draws + 1

/-- For every port (the whole of rA for out, the immediate 0 to 15 for outi) and every rD, the instruction completes at
A + 2 with the output event (port, value of rD) recorded, or with nothing recorded where the port is that of an
absent serial port (log entry 18); no register, flag, memory byte or exception register changes. Derived from
45_io.md; 20_memory.md section 6; 92_eei_decisions.md D11, D27. -/
def Obligations.IoWritesAreRecordedAndChangeNoCpuState : Prop :=
  ∀ (i : Instr) (port : Word) (rD : Reg) (s : State),
    (∃ rA, i = .out rA rD ∧ port = s.read rA) ∨ (∃ im : Nat, im ≤ 15 ∧ i = .outi im rD ∧ port.toNat = im) →
    ∃ t, exec i s = .next t ∧ GoesOn s t ∧ t.sr = s.sr ∧ SameExceptionRegs s t ∧ SameMemory s t ∧
      t.irqIn = s.irqIn ∧ t.ioIn = s.ioIn ∧ t.draws = s.draws ∧ t.cfg = s.cfg ∧
      t.events =
        if s.cfg.serialPresent = false ∧ port = s.cfg.serialPort then s.events
        else s.events ++ [.ioWrite port (s.read rD)]

/-- For every immediate -8 to -1 or 1 to 8 and every rD, addi completes with (rD + IM) mod 2^16 in rD, N and Z from it,
and C the carry of the 16-bit addition: for a positive immediate where rD + IM is 2^16 or more, for a negative one
where rD is at least |IM|. The carry for a negative immediate is decision D32 (log entry 24). Derived from
46_alu_immediate.md (addi); 30_encoding.md section 4; 92_eei_decisions.md D11, D14, D17, D32. -/
def Obligations.AddiAddsTheSignedImmediate : Prop :=
  ∀ (im : Int) (rD : Reg) (s : State), signed4NoZero im = true →
    ∃ v : Word, (v.toNat : Int) = ((s.read rD).toNat + im) % 65536 ∧
      YieldsWithFlags (.addi im rD) s rD v
        (some (if 0 < im then decide (65536 ≤ (s.read rD).toNat + im) else decide (0 ≤ (s.read rD).toNat + im)))

/-- For every immediate -8 to -1 or 1 to 8 and every rD, with m the 16-bit word whose signed value is the immediate,
andi completes with rD and m and ori with rD or m, bit by bit, in rD, N and Z from it and C as it was. That the
operand is sign-extended is decision D14 (log entry 25). Derived from 46_alu_immediate.md (andi, ori);
30_encoding.md section 4; 92_eei_decisions.md D11, D14, D17. -/
def Obligations.AndiAndOriUseTheSignExtendedImmediate : Prop :=
  ∀ (im : Int) (rD : Reg) (s : State), signed4NoZero im = true →
    ∃ m : Word, m.toInt = im ∧
      (∃ v : Word, (∀ j : Nat, v.getLsbD j = ((s.read rD).getLsbD j && m.getLsbD j)) ∧
        YieldsWithFlags (.andi im rD) s rD v none) ∧
      ∃ v : Word, (∀ j : Nat, v.getLsbD j = ((s.read rD).getLsbD j || m.getLsbD j)) ∧
        YieldsWithFlags (.ori im rD) s rD v none

/-- For every count 1 to 8 and every rD, lsli completes with rD * 2^IM mod 2^16 in rD and C bit 16 - IM of the old
value, lsri with rD / 2^IM and C bit IM - 1 of it; N and Z come from the result. Where rD is r15 the order of result
and flags is decision D17 (log entry 8). Derived from 46_alu_immediate.md (lsli, lsri); 92_eei_decisions.md D11,
D14, D17. -/
def Obligations.ImmediateShiftsAreExact : Prop :=
  ∀ (im : Nat) (rD : Reg) (s : State), 1 ≤ im → im ≤ 8 →
    YieldsWithFlags (.lsli im rD) s rD (BitVec.ofNat 16 ((s.read rD).toNat * 2 ^ im))
      (some (decide ((s.read rD).toNat / 2 ^ (16 - im) % 2 = 1))) ∧
    YieldsWithFlags (.lsri im rD) s rD (BitVec.ofNat 16 ((s.read rD).toNat / 2 ^ im))
      (some (decide ((s.read rD).toNat / 2 ^ (im - 1) % 2 = 1)))

/-- For every immediate -8 to 7 and every rD, with m the 16-bit word whose signed value is the immediate, cmpi
completes with N and Z from (rD - m) mod 2^16 and C exactly where rD is below m unsigned; no main register is written.
That C is the borrow is the resolution of 90_conflicts.md C3, which the model deduces with it (log entry 35); the sign
extension is decision D14 (log entry 25). Derived from 46_alu_immediate.md (cmpi); 92_eei_decisions.md D11, D14;
90_conflicts.md C3. -/
def Obligations.CmpiComparesWithTheSignExtendedImmediate : Prop :=
  ∀ (im : Int) (rD : Reg) (s : State), -8 ≤ im → im ≤ 7 →
    ∃ m : Word, m.toInt = im ∧
      Compares (.cmpi im rD) s (BitVec.ofNat 16 ((s.read rD).toNat + 65536 - m.toNat))
        (decide ((s.read rD).toNat < m.toNat))

/-- From every state, whether or not an exception is in progress, reti completes with SR all 16 bits of ESR, pc EPC,
and EUR in rD where rD is one of r0 to r13 (the writes of SR and pc come after it, so rD = r15 and rD = r14 end as ESR
and EPC); the five exception registers, memory, and what the environment has been told are as before. The order of the
writes, with what it makes of rD = r14 and r15, is decision D19 (log entry 23). Derived from 60_exceptions.md section
2; 47_exception_instructions.md (reti); 92_eei_decisions.md D19. -/
def Obligations.RetiRestoresSrAndPcAndRd : Prop :=
  ∀ (rD : Reg) (s : State), ∃ t, exec (.reti rD) s = .next t ∧
    (∀ k : Fin 14, t.gpr k = if rD = .gpr k then s.eur else s.gpr k) ∧ t.sr = s.esr ∧ t.pc = s.epc ∧
    t.stale = [] ∧ Quiet s t

/-- For every rD, where the handler of the number in all 16 bits of rD can be found, trap completes by entering it: EPC
= A + 2, ESR the old SR, ENUM the number, SR[1:0] cleared and its other bits kept, pc at the handler, EUR, VBR, r0
to r13 and memory as before; trapi likewise for the immediate 0 to 15. Decisions D21, D22, D25 (log entries 10, 21).
Derived from 47_exception_instructions.md (trap, trapi); 60_exceptions.md section 2; 92_eei_decisions.md D21, D22,
D25, D35. -/
def Obligations.TrapsEnterTheirVector : Prop :=
  (∀ (rD : Reg) (s : State) (handler : Word), HandlerAt s (s.read rD) handler →
      Raises (.trap rD) s (s.read rD) (s.pc + 2#16) handler) ∧
    ∀ (im : Nat) (s : State) (number handler : Word), im ≤ 15 → number.toNat = im → HandlerAt s number handler →
      Raises (.trapi im) s number (s.pc + 2#16) handler

/-- Where the handler of VEC_INVALID can be found, every invalid word completes by entering it: EPC = A + 2 (A where
INVALID_EPC is self), ESR the old SR, ENUM the number, SR[1:0] cleared, no main register and no memory byte changed,
the low bits of the word and the flags not looked at. Number and return address are parameters (log entries 9, 11).
Derived from 60_exceptions.md sections 1 and 2; 43_branch.md; 30_encoding.md section 5; 92_eei_decisions.md D13,
D20, D21, D22. -/
def Obligations.InvalidWordsEnterTheInvalidInstructionException : Prop :=
  ∀ (s : State) (handler : Word) (off8 : BitVec 8) (top : BitVec 4) (i : Instr), HandlerAt s s.cfg.vecInvalid handler →
    i ∈ [Instr.invalidCc10 off8, .invalidCc11 off8, .invalidCc12 off8, .invalidCc13 off8, .invalidCc14 off8,
      .invalidCc15 off8, .invalidSub1D top, .invalidSub1E top, .invalidSub1F top] →
    Raises i s s.cfg.vecInvalid
      (match s.cfg.invalidEpc with
        | .next => s.pc + 2#16
        | .self => s.pc) handler

/-- For every instruction that enters an exception, with its number n: the step is a model fault exactly where no
handler can be found for n, that is, with VECTOR_MODE = table, where the slot at VBR + 2 * n is odd, unmapped or
unwritten. Decision D21 (log entries 10, 14, 16). Derived from 60_exceptions.md section 2; 92_eei_decisions.md D21. -/
def Obligations.EntryFaultsExactlyWhereNoHandlerIsFound : Prop :=
  ∀ (i : Instr) (s : State) (number : Word),
    (∃ rD, i = .trap rD ∧ number = s.read rD) ∨ (∃ im : Nat, i = .trapi im ∧ number = BitVec.ofNat 16 im) ∨
      (isInvalid i = true ∧ number = s.cfg.vecInvalid) →
    ((∃ f, exec i s = .fault f) ↔ ¬∃ handler, HandlerAt s number handler)

/-- For every rD, each get instruction completes with its exception register's value in rD (a jump where rD is r14, all
of SR where it is r15), no flag, exception register or memory byte changed; in any state, for there is one privilege
level. Derived from 47_exception_instructions.md (getepc, getesr, geteur, getenum, getvbr); 92_eei_decisions.md D12,
D30. -/
def Obligations.GetInstructionsCopyTheirRegister : Prop :=
  ∀ (rD : Reg) (s : State),
    Yields (.getepc rD) s rD s.epc ∧ Yields (.getesr rD) s rD s.esr ∧ Yields (.geteur rD) s rD s.eur ∧
    Yields (.getenum rD) s rD s.enum ∧ Yields (.getvbr rD) s rD s.vbr

/-- For every rD, each set instruction completes at A + 2 with all 16 bits of what naming rD yields in its exception
register, the other four exception registers, r0 to r13, SR, memory and the environment as before. Derived from
47_exception_instructions.md (setepc, setesr, seteur, setenum, setvbr); 92_eei_decisions.md D12, D30. -/
def Obligations.SetInstructionsWriteTheirRegisterAlone : Prop :=
  ∀ (rD : Reg) (s : State) (v : Word), v = s.read rD →
    (∃ t, exec (.setepc rD) s = .next t ∧ GoesOn s t ∧ t.sr = s.sr ∧ SameMemory s t ∧ SameEnvironment s t ∧
      t.epc = v ∧ t.esr = s.esr ∧ t.eur = s.eur ∧ t.enum = s.enum ∧ t.vbr = s.vbr) ∧
    (∃ t, exec (.setesr rD) s = .next t ∧ GoesOn s t ∧ t.sr = s.sr ∧ SameMemory s t ∧ SameEnvironment s t ∧
      t.epc = s.epc ∧ t.esr = v ∧ t.eur = s.eur ∧ t.enum = s.enum ∧ t.vbr = s.vbr) ∧
    (∃ t, exec (.seteur rD) s = .next t ∧ GoesOn s t ∧ t.sr = s.sr ∧ SameMemory s t ∧ SameEnvironment s t ∧
      t.epc = s.epc ∧ t.esr = s.esr ∧ t.eur = v ∧ t.enum = s.enum ∧ t.vbr = s.vbr) ∧
    (∃ t, exec (.setenum rD) s = .next t ∧ GoesOn s t ∧ t.sr = s.sr ∧ SameMemory s t ∧ SameEnvironment s t ∧
      t.epc = s.epc ∧ t.esr = s.esr ∧ t.eur = s.eur ∧ t.enum = v ∧ t.vbr = s.vbr) ∧
    (∃ t, exec (.setvbr rD) s = .next t ∧ GoesOn s t ∧ t.sr = s.sr ∧ SameMemory s t ∧ SameEnvironment s t ∧
      t.epc = s.epc ∧ t.esr = s.esr ∧ t.eur = s.eur ∧ t.enum = s.enum ∧ t.vbr = v)

/-- Where trap completes, a handler that parks a general register with seteur, overwrites it with ldim, and returns
with reti of the same register leaves r0 to r13, all of SR and every byte of memory as they were before the trap and
pc just past it (EPC, ESR, ENUM and EUR hold what the trap and seteur put there). Derived from 60_exceptions.md
section 2; 47_exception_instructions.md (reti, seteur); 92_eei_decisions.md D22. -/
def Obligations.HandlerThatParksARegisterReturnsTransparently : Prop :=
  ∀ (rD : Reg) (k : Fin 14) (im : Int) (s t : State), exec (.trap rD) s = .next t →
    ∃ u v w, exec (.seteur (.gpr k)) t = .next u ∧ exec (.ldim im (.gpr k)) u = .next v ∧
      exec (.reti (.gpr k)) v = .next w ∧
      (∀ j : Fin 14, w.gpr j = s.gpr j) ∧ w.sr = s.sr ∧ w.pc = s.pc + 2#16 ∧ SameMemory s w

/-- Where the run has ended by the spec's convention (the instruction about to execute is bra to itself and no
interrupt is enabled and requested), the step completes with every register, pc, memory byte and event as before; the
request lines of the boundary are used up and, since a taken branch discards what was fetched ahead, no byte is stale
any more (log entry 17), and nothing else changes. Derived from 70_reset_and_hazards.md section 3; 92_eei_decisions.md
D31. -/
def Obligations.EndedRunsStayWhereTheyAre : Prop :=
  ∀ s : State, s.runEnded = true →
    ∃ t, step s = .next t ∧ (∀ k : Fin 14, t.gpr k = s.gpr k) ∧ t.pc = s.pc ∧ t.sr = s.sr ∧ t.stale = [] ∧
      SameExceptionRegs s t ∧ SameMemory s t ∧ t.events = s.events ∧ t.irqIn = s.irqIn.tail ∧ t.ioIn = s.ioIn ∧
      t.draws = s.draws ∧ t.cfg = s.cfg

/-- A step that enters an interrupt leaves no byte stale. A step that executes the instruction i at A leaves none
where i transfers control (a taken branch, call, reti, a write to r14, an exception entry); otherwise every stale byte
stays stale, and none becomes so outside the window [A+2, A+PC_AHEAD). With FetchWithoutMeaningFaults: for PC_AHEAD =
8 a byte stored to at A + 4 to A + 7 is still stale when its instruction is fetched. Decision D29; the list of stale
bytes is the model's (log entry 17). Derived from 20_memory.md section 5; 10_state.md section 2; 92_eei_decisions.md
D29. -/
def Obligations.StaleBytesLastUntilAControlTransfer : Prop :=
  ∀ s t : State, step s = .next t →
    (s.acceptedIrq ≠ none → t.stale = []) ∧
    (s.acceptedIrq = none → ∃ w, fetchWord s = .ok w ∧
      (transfers (decodeWord s.cfg w) s = true → t.stale = []) ∧
      (transfers (decodeWord s.cfg w) s = false →
        (∀ x ∈ s.stale, x ∈ t.stale) ∧ ∀ x ∈ t.stale, x ∈ s.stale ∨ InFetchWindow s x))
end

