-- ==== Sys2Proof/Laws/Flags.lean ====
section
/-! SUPPORT. The bits of SR after a flag update and after exception entry. -/

namespace Sys2Proof.Machine

theorem getLsbD_putBit (w : Word) (i j : Nat) (b : Bool) (hi : i < 16) :
    (putBit w i b).getLsbD j = if j = i then b else w.getLsbD j := by
  have h1 : (1#16).getLsbD (j - i) = decide (j - i = 0) := by
    rw [BitVec.getLsbD_one]; simp
  cases b
  · by_cases hj : j < 16
    · simp only [putBit, Bool.false_eq_true, if_false, BitVec.getLsbD_and, BitVec.getLsbD_not,
        BitVec.getLsbD_shiftLeft, h1, hj, decide_true, Bool.true_and]
      by_cases he : j = i
      · simp [he]
      · by_cases hl : j < i
        · simp [he, hl]
        · have : j - i ≠ 0 := by omega
          simp [he, hl, this]
    · have : j ≠ i := by omega
      simp [BitVec.getLsbD_of_ge _ _ (by omega : 16 ≤ j), this]
  · by_cases hj : j < 16
    · simp only [putBit, if_true, BitVec.getLsbD_or, BitVec.getLsbD_shiftLeft, h1, hj, decide_true, Bool.true_and]
      by_cases he : j = i
      · simp [he]
      · by_cases hl : j < i
        · simp [he, hl]
        · have : j - i ≠ 0 := by omega
          simp [he, this]
    · have : j ≠ i := by omega
      simp [BitVec.getLsbD_of_ge _ _ (by omega : 16 ≤ j), this]

/-- Every bit of SR after a flag update (R30): N, C where it is written, Z, and the rest as they were. -/
theorem getLsbD_updateFlags (c : Option Bool) (res sr : Word) (j : Nat) :
    (updateFlags c res sr).getLsbD j =
      if j = 2 then res == 0#16 else if j = 4 then res.msb else if j = 3 then c.getD (sr.getLsbD 3)
      else sr.getLsbD j := by
  unfold updateFlags
  cases c <;> simp only [getLsbD_putBit _ _ _ _ (by decide : 2 < 16), getLsbD_putBit _ _ _ _ (by decide : 4 < 16),
    getLsbD_putBit _ _ _ _ (by decide : 3 < 16), Option.getD]
  split_ifs <;> simp_all

/-- Every bit of SR after exception entry (R215). -/
theorem getLsbD_clearEnables (sr : Word) (j : Nat) :
    (clearEnables sr).getLsbD j = if j = 0 ∨ j = 1 then false else sr.getLsbD j := by
  unfold clearEnables
  rw [getLsbD_putBit _ _ _ _ (by decide : 0 < 16), getLsbD_putBit _ _ _ _ (by decide : 1 < 16)]
  split_ifs <;> simp_all

end Sys2Proof.Machine
end

