-- ==== Sys2Proof/Laws/Memory.lean ====
section
/-! SUPPORT. The laws of memory as data: reading after writing, and that every operation keeps the canonical form. -/

namespace Sys2Proof.Machine

theorem Memory.lookup_insert (m : Memory) (a b : Nat) (v : Byte) :
    Memory.lookup (Memory.insert m a v) b = if a = b then some v else Memory.lookup m b := by
  induction m with
  | nil => simp [Memory.insert, Memory.lookup]
  | cons c rest ih =>
    obtain ⟨k, u⟩ := c
    simp only [Memory.insert]
    split
    · simp [Memory.lookup]
    · split
      · rename_i h; subst h; by_cases hb : a = b <;> simp [Memory.lookup, hb]
      · rename_i h1 h2
        simp only [Memory.lookup, ih]
        by_cases hk : k = b
        · have : a ≠ b := fun e => h2 (e.trans hk.symm)
          simp [hk, this]
        · simp [hk]

/-- No entry of a list sorted from `lo` lies below `lo`. -/
theorem Memory.lookup_below (m : Memory) (lo a : Nat) (h : Memory.sortedFrom m lo = true) (ha : a < lo) :
    Memory.lookup m a = none := by
  induction m generalizing lo with
  | nil => rfl
  | cons c rest ih =>
    obtain ⟨k, u⟩ := c
    simp only [Memory.sortedFrom, Bool.and_eq_true, decide_eq_true_eq] at h
    obtain ⟨⟨⟨h1, -⟩, -⟩, h4⟩ := h
    have : k ≠ a := by omega
    simp [Memory.lookup, this, ih (k + 1) h4 (by omega)]

theorem Memory.lookup_delete (m : Memory) (lo a b : Nat) (h : Memory.sortedFrom m lo = true) :
    Memory.lookup (Memory.delete m a) b = if a = b then none else Memory.lookup m b := by
  induction m generalizing lo with
  | nil => simp [Memory.delete, Memory.lookup]
  | cons c rest ih =>
    obtain ⟨k, u⟩ := c
    simp only [Memory.sortedFrom, Bool.and_eq_true] at h
    simp only [Memory.delete]
    split
    · rename_i hk
      subst hk
      by_cases hb : k = b
      · subst hb; simp [Memory.lookup_below rest (k + 1) k h.2 (by omega)]
      · simp [Memory.lookup, hb]
    · simp only [Memory.lookup, ih (k + 1) h.2]
      split <;> split <;> simp_all

/-- Reading after a write: the byte written at its address, and every other byte as it was. -/
theorem Memory.read_write (m : Memory) (h : Memory.wf m = true) (a b : Nat) (v : Byte) :
    Memory.read (Memory.write m a v) b = if a = b then some v else Memory.read m b := by
  unfold Memory.write Memory.read
  by_cases hu : unlistedByte = some v
  · rw [if_pos hu, Memory.lookup_delete m 0 a b h]
    by_cases hb : a = b <;> simp [hb, hu]
  · rw [if_neg hu, Memory.lookup_insert]
    by_cases hb : a = b <;> simp [hb]

theorem Memory.sortedFrom_mono (m : Memory) (lo lo' : Nat) (hl : lo' ≤ lo) (h : Memory.sortedFrom m lo = true) :
    Memory.sortedFrom m lo' = true := by
  cases m with
  | nil => rfl
  | cons c rest =>
    simp only [Memory.sortedFrom, Bool.and_eq_true, decide_eq_true_eq] at h ⊢
    exact ⟨⟨⟨by omega, h.1.1.2⟩, h.1.2⟩, h.2⟩

theorem Memory.sortedFrom_delete (m : Memory) (lo a : Nat) (h : Memory.sortedFrom m lo = true) :
    Memory.sortedFrom (Memory.delete m a) lo = true := by
  induction m generalizing lo with
  | nil => rfl
  | cons c rest ih =>
    obtain ⟨k, u⟩ := c
    simp only [Memory.sortedFrom, Bool.and_eq_true, decide_eq_true_eq] at h
    simp only [Memory.delete]
    split
    · exact Memory.sortedFrom_mono rest (k + 1) lo (by omega) h.2
    · simp [Memory.sortedFrom, h.1, ih (k + 1) h.2]

theorem Memory.sortedFrom_insert (m : Memory) (lo a : Nat) (v : Byte) (hlo : lo ≤ a) (ha : a < 65536)
    (hv : unlistedByte ≠ some v) (h : Memory.sortedFrom m lo = true) :
    Memory.sortedFrom (Memory.insert m a v) lo = true := by
  induction m generalizing lo with
  | nil => simp [Memory.insert, Memory.sortedFrom, hlo, ha, hv]
  | cons c rest ih =>
    obtain ⟨k, u⟩ := c
    simp only [Memory.sortedFrom, Bool.and_eq_true, decide_eq_true_eq] at h
    obtain ⟨⟨⟨h1, h2⟩, h3⟩, h4⟩ := h
    simp only [Memory.insert]
    split
    · simp [Memory.sortedFrom, hlo, ha, hv, h2, h3, h4]
      omega
    · split
      · rename_i he
        subst he
        simp [Memory.sortedFrom, hlo, ha, hv, h4]
      · simp [Memory.sortedFrom, h1, h2, h3, ih (k + 1) (by omega) h4]

/-- A write inside the address space keeps the canonical form. -/
theorem Memory.wf_write (m : Memory) (a : Nat) (v : Byte) (ha : a < 65536) (h : Memory.wf m = true) :
    Memory.wf (Memory.write m a v) = true := by
  unfold Memory.write
  split
  · exact Memory.sortedFrom_delete m 0 a h
  · rename_i hu
    exact Memory.sortedFrom_insert m 0 a v (by omega) ha hu h

/-- The empty memory is in canonical form. -/
theorem Memory.wf_nil : Memory.wf [] = true := rfl

end Sys2Proof.Machine
end

