-- ==== Sys2Proof/Laws/State.lean ====
section
/-! SUPPORT. What each named update does to each field of State, so that no proof unfolds a record update. -/

namespace Sys2Proof.Machine

variable (s : State)

/-- Reading a general register after writing one. -/
@[simp] theorem State.gpr_setGpr (i j : Fin 14) (v : Word) :
    (s.setGpr i v).gpr j = if j = i then v else s.gpr j := by
  unfold State.gpr State.setGpr
  by_cases h : j = i
  · subst h; simp
  · have : (i : Nat) ≠ j := fun e => h (Fin.ext e.symm)
    simp [h, Vector.getElem_set_ne _ _ this]

/-! `advance` -/

@[simp] theorem State.regs_advance : (s.advance).regs = s.regs := rfl
@[simp] theorem State.pc_advance : (s.advance).pc = s.pc + 2#16 := rfl
@[simp] theorem State.sr_advance : (s.advance).sr = s.sr := rfl
@[simp] theorem State.epc_advance : (s.advance).epc = s.epc := rfl
@[simp] theorem State.esr_advance : (s.advance).esr = s.esr := rfl
@[simp] theorem State.eur_advance : (s.advance).eur = s.eur := rfl
@[simp] theorem State.enum_advance : (s.advance).enum = s.enum := rfl
@[simp] theorem State.vbr_advance : (s.advance).vbr = s.vbr := rfl
@[simp] theorem State.mem_advance : (s.advance).mem = s.mem := rfl
@[simp] theorem State.stale_advance : (s.advance).stale = s.stale := rfl
@[simp] theorem State.irqIn_advance : (s.advance).irqIn = s.irqIn := rfl
@[simp] theorem State.ioIn_advance : (s.advance).ioIn = s.ioIn := rfl
@[simp] theorem State.events_advance : (s.advance).events = s.events := rfl
@[simp] theorem State.draws_advance : (s.advance).draws = s.draws := rfl
@[simp] theorem State.cfg_advance : (s.advance).cfg = s.cfg := rfl
@[simp] theorem State.gpr_advance (k : Fin 14) : (s.advance).gpr k = s.gpr k := rfl

/-! `jump` -/

@[simp] theorem State.regs_jump (v : Word) : (s.jump v).regs = s.regs := rfl
@[simp] theorem State.pc_jump (v : Word) : (s.jump v).pc = v := rfl
@[simp] theorem State.sr_jump (v : Word) : (s.jump v).sr = s.sr := rfl
@[simp] theorem State.epc_jump (v : Word) : (s.jump v).epc = s.epc := rfl
@[simp] theorem State.esr_jump (v : Word) : (s.jump v).esr = s.esr := rfl
@[simp] theorem State.eur_jump (v : Word) : (s.jump v).eur = s.eur := rfl
@[simp] theorem State.enum_jump (v : Word) : (s.jump v).enum = s.enum := rfl
@[simp] theorem State.vbr_jump (v : Word) : (s.jump v).vbr = s.vbr := rfl
@[simp] theorem State.mem_jump (v : Word) : (s.jump v).mem = s.mem := rfl
@[simp] theorem State.stale_jump (v : Word) : (s.jump v).stale = [] := rfl
@[simp] theorem State.irqIn_jump (v : Word) : (s.jump v).irqIn = s.irqIn := rfl
@[simp] theorem State.ioIn_jump (v : Word) : (s.jump v).ioIn = s.ioIn := rfl
@[simp] theorem State.events_jump (v : Word) : (s.jump v).events = s.events := rfl
@[simp] theorem State.draws_jump (v : Word) : (s.jump v).draws = s.draws := rfl
@[simp] theorem State.cfg_jump (v : Word) : (s.jump v).cfg = s.cfg := rfl
@[simp] theorem State.gpr_jump (v : Word) (k : Fin 14) : (s.jump v).gpr k = s.gpr k := rfl

/-! `setGpr` -/

@[simp] theorem State.regs_setGpr (i : Fin 14) (v : Word) : (s.setGpr i v).regs = s.regs.set i v := rfl
@[simp] theorem State.pc_setGpr (i : Fin 14) (v : Word) : (s.setGpr i v).pc = s.pc := rfl
@[simp] theorem State.sr_setGpr (i : Fin 14) (v : Word) : (s.setGpr i v).sr = s.sr := rfl
@[simp] theorem State.epc_setGpr (i : Fin 14) (v : Word) : (s.setGpr i v).epc = s.epc := rfl
@[simp] theorem State.esr_setGpr (i : Fin 14) (v : Word) : (s.setGpr i v).esr = s.esr := rfl
@[simp] theorem State.eur_setGpr (i : Fin 14) (v : Word) : (s.setGpr i v).eur = s.eur := rfl
@[simp] theorem State.enum_setGpr (i : Fin 14) (v : Word) : (s.setGpr i v).enum = s.enum := rfl
@[simp] theorem State.vbr_setGpr (i : Fin 14) (v : Word) : (s.setGpr i v).vbr = s.vbr := rfl
@[simp] theorem State.mem_setGpr (i : Fin 14) (v : Word) : (s.setGpr i v).mem = s.mem := rfl
@[simp] theorem State.stale_setGpr (i : Fin 14) (v : Word) : (s.setGpr i v).stale = s.stale := rfl
@[simp] theorem State.irqIn_setGpr (i : Fin 14) (v : Word) : (s.setGpr i v).irqIn = s.irqIn := rfl
@[simp] theorem State.ioIn_setGpr (i : Fin 14) (v : Word) : (s.setGpr i v).ioIn = s.ioIn := rfl
@[simp] theorem State.events_setGpr (i : Fin 14) (v : Word) : (s.setGpr i v).events = s.events := rfl
@[simp] theorem State.draws_setGpr (i : Fin 14) (v : Word) : (s.setGpr i v).draws = s.draws := rfl
@[simp] theorem State.cfg_setGpr (i : Fin 14) (v : Word) : (s.setGpr i v).cfg = s.cfg := rfl

/-! `setSr` -/

@[simp] theorem State.regs_setSr (v : Word) : (s.setSr v).regs = s.regs := rfl
@[simp] theorem State.pc_setSr (v : Word) : (s.setSr v).pc = s.pc := rfl
@[simp] theorem State.sr_setSr (v : Word) : (s.setSr v).sr = v := rfl
@[simp] theorem State.epc_setSr (v : Word) : (s.setSr v).epc = s.epc := rfl
@[simp] theorem State.esr_setSr (v : Word) : (s.setSr v).esr = s.esr := rfl
@[simp] theorem State.eur_setSr (v : Word) : (s.setSr v).eur = s.eur := rfl
@[simp] theorem State.enum_setSr (v : Word) : (s.setSr v).enum = s.enum := rfl
@[simp] theorem State.vbr_setSr (v : Word) : (s.setSr v).vbr = s.vbr := rfl
@[simp] theorem State.mem_setSr (v : Word) : (s.setSr v).mem = s.mem := rfl
@[simp] theorem State.stale_setSr (v : Word) : (s.setSr v).stale = s.stale := rfl
@[simp] theorem State.irqIn_setSr (v : Word) : (s.setSr v).irqIn = s.irqIn := rfl
@[simp] theorem State.ioIn_setSr (v : Word) : (s.setSr v).ioIn = s.ioIn := rfl
@[simp] theorem State.events_setSr (v : Word) : (s.setSr v).events = s.events := rfl
@[simp] theorem State.draws_setSr (v : Word) : (s.setSr v).draws = s.draws := rfl
@[simp] theorem State.cfg_setSr (v : Word) : (s.setSr v).cfg = s.cfg := rfl
@[simp] theorem State.gpr_setSr (v : Word) (k : Fin 14) : (s.setSr v).gpr k = s.gpr k := rfl

/-! `setEpc` -/

@[simp] theorem State.regs_setEpc (v : Word) : (s.setEpc v).regs = s.regs := rfl
@[simp] theorem State.pc_setEpc (v : Word) : (s.setEpc v).pc = s.pc := rfl
@[simp] theorem State.sr_setEpc (v : Word) : (s.setEpc v).sr = s.sr := rfl
@[simp] theorem State.epc_setEpc (v : Word) : (s.setEpc v).epc = v := rfl
@[simp] theorem State.esr_setEpc (v : Word) : (s.setEpc v).esr = s.esr := rfl
@[simp] theorem State.eur_setEpc (v : Word) : (s.setEpc v).eur = s.eur := rfl
@[simp] theorem State.enum_setEpc (v : Word) : (s.setEpc v).enum = s.enum := rfl
@[simp] theorem State.vbr_setEpc (v : Word) : (s.setEpc v).vbr = s.vbr := rfl
@[simp] theorem State.mem_setEpc (v : Word) : (s.setEpc v).mem = s.mem := rfl
@[simp] theorem State.stale_setEpc (v : Word) : (s.setEpc v).stale = s.stale := rfl
@[simp] theorem State.irqIn_setEpc (v : Word) : (s.setEpc v).irqIn = s.irqIn := rfl
@[simp] theorem State.ioIn_setEpc (v : Word) : (s.setEpc v).ioIn = s.ioIn := rfl
@[simp] theorem State.events_setEpc (v : Word) : (s.setEpc v).events = s.events := rfl
@[simp] theorem State.draws_setEpc (v : Word) : (s.setEpc v).draws = s.draws := rfl
@[simp] theorem State.cfg_setEpc (v : Word) : (s.setEpc v).cfg = s.cfg := rfl
@[simp] theorem State.gpr_setEpc (v : Word) (k : Fin 14) : (s.setEpc v).gpr k = s.gpr k := rfl

/-! `setEsr` -/

@[simp] theorem State.regs_setEsr (v : Word) : (s.setEsr v).regs = s.regs := rfl
@[simp] theorem State.pc_setEsr (v : Word) : (s.setEsr v).pc = s.pc := rfl
@[simp] theorem State.sr_setEsr (v : Word) : (s.setEsr v).sr = s.sr := rfl
@[simp] theorem State.epc_setEsr (v : Word) : (s.setEsr v).epc = s.epc := rfl
@[simp] theorem State.esr_setEsr (v : Word) : (s.setEsr v).esr = v := rfl
@[simp] theorem State.eur_setEsr (v : Word) : (s.setEsr v).eur = s.eur := rfl
@[simp] theorem State.enum_setEsr (v : Word) : (s.setEsr v).enum = s.enum := rfl
@[simp] theorem State.vbr_setEsr (v : Word) : (s.setEsr v).vbr = s.vbr := rfl
@[simp] theorem State.mem_setEsr (v : Word) : (s.setEsr v).mem = s.mem := rfl
@[simp] theorem State.stale_setEsr (v : Word) : (s.setEsr v).stale = s.stale := rfl
@[simp] theorem State.irqIn_setEsr (v : Word) : (s.setEsr v).irqIn = s.irqIn := rfl
@[simp] theorem State.ioIn_setEsr (v : Word) : (s.setEsr v).ioIn = s.ioIn := rfl
@[simp] theorem State.events_setEsr (v : Word) : (s.setEsr v).events = s.events := rfl
@[simp] theorem State.draws_setEsr (v : Word) : (s.setEsr v).draws = s.draws := rfl
@[simp] theorem State.cfg_setEsr (v : Word) : (s.setEsr v).cfg = s.cfg := rfl
@[simp] theorem State.gpr_setEsr (v : Word) (k : Fin 14) : (s.setEsr v).gpr k = s.gpr k := rfl

/-! `setEur` -/

@[simp] theorem State.regs_setEur (v : Word) : (s.setEur v).regs = s.regs := rfl
@[simp] theorem State.pc_setEur (v : Word) : (s.setEur v).pc = s.pc := rfl
@[simp] theorem State.sr_setEur (v : Word) : (s.setEur v).sr = s.sr := rfl
@[simp] theorem State.epc_setEur (v : Word) : (s.setEur v).epc = s.epc := rfl
@[simp] theorem State.esr_setEur (v : Word) : (s.setEur v).esr = s.esr := rfl
@[simp] theorem State.eur_setEur (v : Word) : (s.setEur v).eur = v := rfl
@[simp] theorem State.enum_setEur (v : Word) : (s.setEur v).enum = s.enum := rfl
@[simp] theorem State.vbr_setEur (v : Word) : (s.setEur v).vbr = s.vbr := rfl
@[simp] theorem State.mem_setEur (v : Word) : (s.setEur v).mem = s.mem := rfl
@[simp] theorem State.stale_setEur (v : Word) : (s.setEur v).stale = s.stale := rfl
@[simp] theorem State.irqIn_setEur (v : Word) : (s.setEur v).irqIn = s.irqIn := rfl
@[simp] theorem State.ioIn_setEur (v : Word) : (s.setEur v).ioIn = s.ioIn := rfl
@[simp] theorem State.events_setEur (v : Word) : (s.setEur v).events = s.events := rfl
@[simp] theorem State.draws_setEur (v : Word) : (s.setEur v).draws = s.draws := rfl
@[simp] theorem State.cfg_setEur (v : Word) : (s.setEur v).cfg = s.cfg := rfl
@[simp] theorem State.gpr_setEur (v : Word) (k : Fin 14) : (s.setEur v).gpr k = s.gpr k := rfl

/-! `setEnum` -/

@[simp] theorem State.regs_setEnum (v : Word) : (s.setEnum v).regs = s.regs := rfl
@[simp] theorem State.pc_setEnum (v : Word) : (s.setEnum v).pc = s.pc := rfl
@[simp] theorem State.sr_setEnum (v : Word) : (s.setEnum v).sr = s.sr := rfl
@[simp] theorem State.epc_setEnum (v : Word) : (s.setEnum v).epc = s.epc := rfl
@[simp] theorem State.esr_setEnum (v : Word) : (s.setEnum v).esr = s.esr := rfl
@[simp] theorem State.eur_setEnum (v : Word) : (s.setEnum v).eur = s.eur := rfl
@[simp] theorem State.enum_setEnum (v : Word) : (s.setEnum v).enum = v := rfl
@[simp] theorem State.vbr_setEnum (v : Word) : (s.setEnum v).vbr = s.vbr := rfl
@[simp] theorem State.mem_setEnum (v : Word) : (s.setEnum v).mem = s.mem := rfl
@[simp] theorem State.stale_setEnum (v : Word) : (s.setEnum v).stale = s.stale := rfl
@[simp] theorem State.irqIn_setEnum (v : Word) : (s.setEnum v).irqIn = s.irqIn := rfl
@[simp] theorem State.ioIn_setEnum (v : Word) : (s.setEnum v).ioIn = s.ioIn := rfl
@[simp] theorem State.events_setEnum (v : Word) : (s.setEnum v).events = s.events := rfl
@[simp] theorem State.draws_setEnum (v : Word) : (s.setEnum v).draws = s.draws := rfl
@[simp] theorem State.cfg_setEnum (v : Word) : (s.setEnum v).cfg = s.cfg := rfl
@[simp] theorem State.gpr_setEnum (v : Word) (k : Fin 14) : (s.setEnum v).gpr k = s.gpr k := rfl

/-! `setVbr` -/

@[simp] theorem State.regs_setVbr (v : Word) : (s.setVbr v).regs = s.regs := rfl
@[simp] theorem State.pc_setVbr (v : Word) : (s.setVbr v).pc = s.pc := rfl
@[simp] theorem State.sr_setVbr (v : Word) : (s.setVbr v).sr = s.sr := rfl
@[simp] theorem State.epc_setVbr (v : Word) : (s.setVbr v).epc = s.epc := rfl
@[simp] theorem State.esr_setVbr (v : Word) : (s.setVbr v).esr = s.esr := rfl
@[simp] theorem State.eur_setVbr (v : Word) : (s.setVbr v).eur = s.eur := rfl
@[simp] theorem State.enum_setVbr (v : Word) : (s.setVbr v).enum = s.enum := rfl
@[simp] theorem State.vbr_setVbr (v : Word) : (s.setVbr v).vbr = v := rfl
@[simp] theorem State.mem_setVbr (v : Word) : (s.setVbr v).mem = s.mem := rfl
@[simp] theorem State.stale_setVbr (v : Word) : (s.setVbr v).stale = s.stale := rfl
@[simp] theorem State.irqIn_setVbr (v : Word) : (s.setVbr v).irqIn = s.irqIn := rfl
@[simp] theorem State.ioIn_setVbr (v : Word) : (s.setVbr v).ioIn = s.ioIn := rfl
@[simp] theorem State.events_setVbr (v : Word) : (s.setVbr v).events = s.events := rfl
@[simp] theorem State.draws_setVbr (v : Word) : (s.setVbr v).draws = s.draws := rfl
@[simp] theorem State.cfg_setVbr (v : Word) : (s.setVbr v).cfg = s.cfg := rfl
@[simp] theorem State.gpr_setVbr (v : Word) (k : Fin 14) : (s.setVbr v).gpr k = s.gpr k := rfl

/-! `tell` -/

@[simp] theorem State.regs_tell (e : Event) : (s.tell e).regs = s.regs := rfl
@[simp] theorem State.pc_tell (e : Event) : (s.tell e).pc = s.pc := rfl
@[simp] theorem State.sr_tell (e : Event) : (s.tell e).sr = s.sr := rfl
@[simp] theorem State.epc_tell (e : Event) : (s.tell e).epc = s.epc := rfl
@[simp] theorem State.esr_tell (e : Event) : (s.tell e).esr = s.esr := rfl
@[simp] theorem State.eur_tell (e : Event) : (s.tell e).eur = s.eur := rfl
@[simp] theorem State.enum_tell (e : Event) : (s.tell e).enum = s.enum := rfl
@[simp] theorem State.vbr_tell (e : Event) : (s.tell e).vbr = s.vbr := rfl
@[simp] theorem State.mem_tell (e : Event) : (s.tell e).mem = s.mem := rfl
@[simp] theorem State.stale_tell (e : Event) : (s.tell e).stale = s.stale := rfl
@[simp] theorem State.irqIn_tell (e : Event) : (s.tell e).irqIn = s.irqIn := rfl
@[simp] theorem State.ioIn_tell (e : Event) : (s.tell e).ioIn = s.ioIn := rfl
@[simp] theorem State.events_tell (e : Event) : (s.tell e).events = s.events ++ [e] := rfl
@[simp] theorem State.draws_tell (e : Event) : (s.tell e).draws = s.draws := rfl
@[simp] theorem State.cfg_tell (e : Event) : (s.tell e).cfg = s.cfg := rfl
@[simp] theorem State.gpr_tell (e : Event) (k : Fin 14) : (s.tell e).gpr k = s.gpr k := rfl

/-! `storeByte` -/

@[simp] theorem State.regs_storeByte (a : Word) (v : Byte) : (s.storeByte a v).regs = s.regs := rfl
@[simp] theorem State.pc_storeByte (a : Word) (v : Byte) : (s.storeByte a v).pc = s.pc := rfl
@[simp] theorem State.sr_storeByte (a : Word) (v : Byte) : (s.storeByte a v).sr = s.sr := rfl
@[simp] theorem State.epc_storeByte (a : Word) (v : Byte) : (s.storeByte a v).epc = s.epc := rfl
@[simp] theorem State.esr_storeByte (a : Word) (v : Byte) : (s.storeByte a v).esr = s.esr := rfl
@[simp] theorem State.eur_storeByte (a : Word) (v : Byte) : (s.storeByte a v).eur = s.eur := rfl
@[simp] theorem State.enum_storeByte (a : Word) (v : Byte) : (s.storeByte a v).enum = s.enum := rfl
@[simp] theorem State.vbr_storeByte (a : Word) (v : Byte) : (s.storeByte a v).vbr = s.vbr := rfl
@[simp] theorem State.mem_storeByte (a : Word) (v : Byte) : (s.storeByte a v).mem = Memory.write s.mem a.toNat v := rfl
@[simp] theorem State.stale_storeByte (a : Word) (v : Byte) : (s.storeByte a v).stale = if s.inWindow a then a :: s.stale else s.stale := rfl
@[simp] theorem State.irqIn_storeByte (a : Word) (v : Byte) : (s.storeByte a v).irqIn = s.irqIn := rfl
@[simp] theorem State.ioIn_storeByte (a : Word) (v : Byte) : (s.storeByte a v).ioIn = s.ioIn := rfl
@[simp] theorem State.events_storeByte (a : Word) (v : Byte) : (s.storeByte a v).events = s.events := rfl
@[simp] theorem State.draws_storeByte (a : Word) (v : Byte) : (s.storeByte a v).draws = s.draws := rfl
@[simp] theorem State.cfg_storeByte (a : Word) (v : Byte) : (s.storeByte a v).cfg = s.cfg := rfl
@[simp] theorem State.gpr_storeByte (a : Word) (v : Byte) (k : Fin 14) : (s.storeByte a v).gpr k = s.gpr k := rfl

/-! `enter` -/

@[simp] theorem State.regs_enter (number ret handler : Word) : (s.enter number ret handler).regs = s.regs := rfl
@[simp] theorem State.pc_enter (number ret handler : Word) : (s.enter number ret handler).pc = handler := rfl
@[simp] theorem State.sr_enter (number ret handler : Word) : (s.enter number ret handler).sr = clearEnables s.sr := rfl
@[simp] theorem State.epc_enter (number ret handler : Word) : (s.enter number ret handler).epc = ret := rfl
@[simp] theorem State.esr_enter (number ret handler : Word) : (s.enter number ret handler).esr = s.sr := rfl
@[simp] theorem State.eur_enter (number ret handler : Word) : (s.enter number ret handler).eur = s.eur := rfl
@[simp] theorem State.enum_enter (number ret handler : Word) : (s.enter number ret handler).enum = number := rfl
@[simp] theorem State.vbr_enter (number ret handler : Word) : (s.enter number ret handler).vbr = s.vbr := rfl
@[simp] theorem State.mem_enter (number ret handler : Word) : (s.enter number ret handler).mem = s.mem := rfl
@[simp] theorem State.stale_enter (number ret handler : Word) : (s.enter number ret handler).stale = [] := rfl
@[simp] theorem State.irqIn_enter (number ret handler : Word) : (s.enter number ret handler).irqIn = s.irqIn := rfl
@[simp] theorem State.ioIn_enter (number ret handler : Word) : (s.enter number ret handler).ioIn = s.ioIn := rfl
@[simp] theorem State.events_enter (number ret handler : Word) : (s.enter number ret handler).events = s.events := rfl
@[simp] theorem State.draws_enter (number ret handler : Word) : (s.enter number ret handler).draws = s.draws := rfl
@[simp] theorem State.cfg_enter (number ret handler : Word) : (s.enter number ret handler).cfg = s.cfg := rfl
@[simp] theorem State.gpr_enter (number ret handler : Word) (k : Fin 14) : (s.enter number ret handler).gpr k = s.gpr k := rfl

/-! `passBoundary` -/

@[simp] theorem State.regs_passBoundary : (s.passBoundary).regs = s.regs := rfl
@[simp] theorem State.pc_passBoundary : (s.passBoundary).pc = s.pc := rfl
@[simp] theorem State.sr_passBoundary : (s.passBoundary).sr = s.sr := rfl
@[simp] theorem State.epc_passBoundary : (s.passBoundary).epc = s.epc := rfl
@[simp] theorem State.esr_passBoundary : (s.passBoundary).esr = s.esr := rfl
@[simp] theorem State.eur_passBoundary : (s.passBoundary).eur = s.eur := rfl
@[simp] theorem State.enum_passBoundary : (s.passBoundary).enum = s.enum := rfl
@[simp] theorem State.vbr_passBoundary : (s.passBoundary).vbr = s.vbr := rfl
@[simp] theorem State.mem_passBoundary : (s.passBoundary).mem = s.mem := rfl
@[simp] theorem State.stale_passBoundary : (s.passBoundary).stale = s.stale := rfl
@[simp] theorem State.irqIn_passBoundary : (s.passBoundary).irqIn = s.irqIn.tail := rfl
@[simp] theorem State.ioIn_passBoundary : (s.passBoundary).ioIn = s.ioIn := rfl
@[simp] theorem State.events_passBoundary : (s.passBoundary).events = s.events := rfl
@[simp] theorem State.draws_passBoundary : (s.passBoundary).draws = s.draws := rfl
@[simp] theorem State.cfg_passBoundary : (s.passBoundary).cfg = s.cfg := rfl
@[simp] theorem State.gpr_passBoundary (k : Fin 14) : (s.passBoundary).gpr k = s.gpr k := rfl

/-! `useAnswer` -/

@[simp] theorem State.regs_useAnswer : s.useAnswer.regs = s.regs := by unfold State.useAnswer; split <;> rfl
@[simp] theorem State.pc_useAnswer : s.useAnswer.pc = s.pc := by unfold State.useAnswer; split <;> rfl
@[simp] theorem State.sr_useAnswer : s.useAnswer.sr = s.sr := by unfold State.useAnswer; split <;> rfl
@[simp] theorem State.epc_useAnswer : s.useAnswer.epc = s.epc := by unfold State.useAnswer; split <;> rfl
@[simp] theorem State.esr_useAnswer : s.useAnswer.esr = s.esr := by unfold State.useAnswer; split <;> rfl
@[simp] theorem State.eur_useAnswer : s.useAnswer.eur = s.eur := by unfold State.useAnswer; split <;> rfl
@[simp] theorem State.enum_useAnswer : s.useAnswer.enum = s.enum := by unfold State.useAnswer; split <;> rfl
@[simp] theorem State.vbr_useAnswer : s.useAnswer.vbr = s.vbr := by unfold State.useAnswer; split <;> rfl
@[simp] theorem State.mem_useAnswer : s.useAnswer.mem = s.mem := by unfold State.useAnswer; split <;> rfl
@[simp] theorem State.stale_useAnswer : s.useAnswer.stale = s.stale := by unfold State.useAnswer; split <;> rfl
@[simp] theorem State.irqIn_useAnswer : s.useAnswer.irqIn = s.irqIn := by unfold State.useAnswer; split <;> rfl
@[simp] theorem State.events_useAnswer : s.useAnswer.events = s.events := by unfold State.useAnswer; split <;> rfl
@[simp] theorem State.cfg_useAnswer : s.useAnswer.cfg = s.cfg := by unfold State.useAnswer; split <;> rfl
@[simp] theorem State.gpr_useAnswer (k : Fin 14) : s.useAnswer.gpr k = s.gpr k := by simp [State.gpr]

/-! `write` -/

@[simp] theorem State.epc_write (r : Reg) (v : Word) : (s.write r v).epc = s.epc := by cases r <;> rfl
@[simp] theorem State.esr_write (r : Reg) (v : Word) : (s.write r v).esr = s.esr := by cases r <;> rfl
@[simp] theorem State.eur_write (r : Reg) (v : Word) : (s.write r v).eur = s.eur := by cases r <;> rfl
@[simp] theorem State.enum_write (r : Reg) (v : Word) : (s.write r v).enum = s.enum := by cases r <;> rfl
@[simp] theorem State.vbr_write (r : Reg) (v : Word) : (s.write r v).vbr = s.vbr := by cases r <;> rfl
@[simp] theorem State.mem_write (r : Reg) (v : Word) : (s.write r v).mem = s.mem := by cases r <;> rfl
@[simp] theorem State.irqIn_write (r : Reg) (v : Word) : (s.write r v).irqIn = s.irqIn := by cases r <;> rfl
@[simp] theorem State.ioIn_write (r : Reg) (v : Word) : (s.write r v).ioIn = s.ioIn := by cases r <;> rfl
@[simp] theorem State.events_write (r : Reg) (v : Word) : (s.write r v).events = s.events := by cases r <;> rfl
@[simp] theorem State.draws_write (r : Reg) (v : Word) : (s.write r v).draws = s.draws := by cases r <;> rfl
@[simp] theorem State.cfg_write (r : Reg) (v : Word) : (s.write r v).cfg = s.cfg := by cases r <;> rfl
@[simp] theorem State.gpr_write (r : Reg) (v : Word) (k : Fin 14) :
    (s.write r v).gpr k = if r = .gpr k then v else s.gpr k := by
  cases r <;> simp [State.write, eq_comm]
@[simp] theorem State.pc_write (r : Reg) (v : Word) : (s.write r v).pc = if r = .pc then v else s.pc := by
  cases r <;> rfl
@[simp] theorem State.sr_write (r : Reg) (v : Word) : (s.write r v).sr = if r = .sr then v else s.sr := by
  cases r <;> rfl
@[simp] theorem State.stale_write (r : Reg) (v : Word) : (s.write r v).stale = if r = .pc then [] else s.stale := by
  cases r <;> rfl

/-! `finish` -/

@[simp] theorem State.epc_finish (r : Reg) (v : Word) : (s.finish r v).epc = s.epc := by simp [State.finish]
@[simp] theorem State.esr_finish (r : Reg) (v : Word) : (s.finish r v).esr = s.esr := by simp [State.finish]
@[simp] theorem State.eur_finish (r : Reg) (v : Word) : (s.finish r v).eur = s.eur := by simp [State.finish]
@[simp] theorem State.enum_finish (r : Reg) (v : Word) : (s.finish r v).enum = s.enum := by simp [State.finish]
@[simp] theorem State.vbr_finish (r : Reg) (v : Word) : (s.finish r v).vbr = s.vbr := by simp [State.finish]
@[simp] theorem State.mem_finish (r : Reg) (v : Word) : (s.finish r v).mem = s.mem := by simp [State.finish]
@[simp] theorem State.irqIn_finish (r : Reg) (v : Word) : (s.finish r v).irqIn = s.irqIn := by simp [State.finish]
@[simp] theorem State.ioIn_finish (r : Reg) (v : Word) : (s.finish r v).ioIn = s.ioIn := by simp [State.finish]
@[simp] theorem State.events_finish (r : Reg) (v : Word) : (s.finish r v).events = s.events := by simp [State.finish]
@[simp] theorem State.draws_finish (r : Reg) (v : Word) : (s.finish r v).draws = s.draws := by simp [State.finish]
@[simp] theorem State.cfg_finish (r : Reg) (v : Word) : (s.finish r v).cfg = s.cfg := by simp [State.finish]
@[simp] theorem State.gpr_finish (r : Reg) (v : Word) (k : Fin 14) :
    (s.finish r v).gpr k = if r = .gpr k then v else s.gpr k := by simp [State.finish]
@[simp] theorem State.pc_finish (r : Reg) (v : Word) : (s.finish r v).pc = if r = .pc then v else s.pc + 2#16 := by
  simp [State.finish]
@[simp] theorem State.sr_finish (r : Reg) (v : Word) : (s.finish r v).sr = if r = .sr then v else s.sr := by
  simp [State.finish]
@[simp] theorem State.stale_finish (r : Reg) (v : Word) : (s.finish r v).stale = if r = .pc then [] else s.stale := by
  simp [State.finish]

/-! `withFlags` -/

@[simp] theorem State.regs_withFlags (c : Option Bool) (res : Word) : (s.withFlags c res).regs = s.regs := by rfl
@[simp] theorem State.pc_withFlags (c : Option Bool) (res : Word) : (s.withFlags c res).pc = s.pc := by rfl
@[simp] theorem State.epc_withFlags (c : Option Bool) (res : Word) : (s.withFlags c res).epc = s.epc := by rfl
@[simp] theorem State.esr_withFlags (c : Option Bool) (res : Word) : (s.withFlags c res).esr = s.esr := by rfl
@[simp] theorem State.eur_withFlags (c : Option Bool) (res : Word) : (s.withFlags c res).eur = s.eur := by rfl
@[simp] theorem State.enum_withFlags (c : Option Bool) (res : Word) : (s.withFlags c res).enum = s.enum := by rfl
@[simp] theorem State.vbr_withFlags (c : Option Bool) (res : Word) : (s.withFlags c res).vbr = s.vbr := by rfl
@[simp] theorem State.mem_withFlags (c : Option Bool) (res : Word) : (s.withFlags c res).mem = s.mem := by rfl
@[simp] theorem State.stale_withFlags (c : Option Bool) (res : Word) : (s.withFlags c res).stale = s.stale := by rfl
@[simp] theorem State.irqIn_withFlags (c : Option Bool) (res : Word) : (s.withFlags c res).irqIn = s.irqIn := by rfl
@[simp] theorem State.ioIn_withFlags (c : Option Bool) (res : Word) : (s.withFlags c res).ioIn = s.ioIn := by rfl
@[simp] theorem State.events_withFlags (c : Option Bool) (res : Word) : (s.withFlags c res).events = s.events := by rfl
@[simp] theorem State.draws_withFlags (c : Option Bool) (res : Word) : (s.withFlags c res).draws = s.draws := by rfl
@[simp] theorem State.cfg_withFlags (c : Option Bool) (res : Word) : (s.withFlags c res).cfg = s.cfg := by rfl
@[simp] theorem State.sr_withFlags (c : Option Bool) (res : Word) :
    (s.withFlags c res).sr = updateFlags c res s.sr := rfl
@[simp] theorem State.gpr_withFlags (c : Option Bool) (res : Word) (k : Fin 14) :
    (s.withFlags c res).gpr k = s.gpr k := rfl

/-! `finishWithFlags` -/

@[simp] theorem State.epc_finishWithFlags (r : Reg) (res : Word) (c : Option Bool) : (s.finishWithFlags r res c).epc = s.epc := by unfold State.finishWithFlags; split <;> simp
@[simp] theorem State.esr_finishWithFlags (r : Reg) (res : Word) (c : Option Bool) : (s.finishWithFlags r res c).esr = s.esr := by unfold State.finishWithFlags; split <;> simp
@[simp] theorem State.eur_finishWithFlags (r : Reg) (res : Word) (c : Option Bool) : (s.finishWithFlags r res c).eur = s.eur := by unfold State.finishWithFlags; split <;> simp
@[simp] theorem State.enum_finishWithFlags (r : Reg) (res : Word) (c : Option Bool) : (s.finishWithFlags r res c).enum = s.enum := by unfold State.finishWithFlags; split <;> simp
@[simp] theorem State.vbr_finishWithFlags (r : Reg) (res : Word) (c : Option Bool) : (s.finishWithFlags r res c).vbr = s.vbr := by unfold State.finishWithFlags; split <;> simp
@[simp] theorem State.mem_finishWithFlags (r : Reg) (res : Word) (c : Option Bool) : (s.finishWithFlags r res c).mem = s.mem := by unfold State.finishWithFlags; split <;> simp
@[simp] theorem State.irqIn_finishWithFlags (r : Reg) (res : Word) (c : Option Bool) : (s.finishWithFlags r res c).irqIn = s.irqIn := by unfold State.finishWithFlags; split <;> simp
@[simp] theorem State.ioIn_finishWithFlags (r : Reg) (res : Word) (c : Option Bool) : (s.finishWithFlags r res c).ioIn = s.ioIn := by unfold State.finishWithFlags; split <;> simp
@[simp] theorem State.events_finishWithFlags (r : Reg) (res : Word) (c : Option Bool) : (s.finishWithFlags r res c).events = s.events := by unfold State.finishWithFlags; split <;> simp
@[simp] theorem State.draws_finishWithFlags (r : Reg) (res : Word) (c : Option Bool) : (s.finishWithFlags r res c).draws = s.draws := by unfold State.finishWithFlags; split <;> simp
@[simp] theorem State.cfg_finishWithFlags (r : Reg) (res : Word) (c : Option Bool) : (s.finishWithFlags r res c).cfg = s.cfg := by unfold State.finishWithFlags; split <;> simp
@[simp] theorem State.gpr_finishWithFlags (r : Reg) (res : Word) (c : Option Bool) (k : Fin 14) :
    (s.finishWithFlags r res c).gpr k = if r = .gpr k then res else s.gpr k := by
  unfold State.finishWithFlags; split <;> simp
@[simp] theorem State.pc_finishWithFlags (r : Reg) (res : Word) (c : Option Bool) :
    (s.finishWithFlags r res c).pc = if r = .pc then res else s.pc + 2#16 := by
  unfold State.finishWithFlags; split <;> simp
@[simp] theorem State.stale_finishWithFlags (r : Reg) (res : Word) (c : Option Bool) :
    (s.finishWithFlags r res c).stale = if r = .pc then [] else s.stale := by
  unfold State.finishWithFlags; split <;> simp
/-- SR after a result and its flags (R130): the order matters only for rD = r15. -/
theorem State.sr_finishWithFlags (r : Reg) (res : Word) (c : Option Bool) :
    (s.finishWithFlags r res c).sr =
      match s.cfg.srWriteOrder with
      | .resultThenFlags => updateFlags c res (if r = .sr then res else s.sr)
      | .flagsThenResult => if r = .sr then res else updateFlags c res s.sr := by
  cases h : s.cfg.srWriteOrder <;> simp [State.finishWithFlags, h]

/-! `finishCompare` -/

@[simp] theorem State.regs_finishCompare (d : Word) (b : Bool) : (s.finishCompare d b).regs = s.regs := by rfl
@[simp] theorem State.epc_finishCompare (d : Word) (b : Bool) : (s.finishCompare d b).epc = s.epc := by rfl
@[simp] theorem State.esr_finishCompare (d : Word) (b : Bool) : (s.finishCompare d b).esr = s.esr := by rfl
@[simp] theorem State.eur_finishCompare (d : Word) (b : Bool) : (s.finishCompare d b).eur = s.eur := by rfl
@[simp] theorem State.enum_finishCompare (d : Word) (b : Bool) : (s.finishCompare d b).enum = s.enum := by rfl
@[simp] theorem State.vbr_finishCompare (d : Word) (b : Bool) : (s.finishCompare d b).vbr = s.vbr := by rfl
@[simp] theorem State.mem_finishCompare (d : Word) (b : Bool) : (s.finishCompare d b).mem = s.mem := by rfl
@[simp] theorem State.stale_finishCompare (d : Word) (b : Bool) : (s.finishCompare d b).stale = s.stale := by rfl
@[simp] theorem State.irqIn_finishCompare (d : Word) (b : Bool) : (s.finishCompare d b).irqIn = s.irqIn := by rfl
@[simp] theorem State.ioIn_finishCompare (d : Word) (b : Bool) : (s.finishCompare d b).ioIn = s.ioIn := by rfl
@[simp] theorem State.events_finishCompare (d : Word) (b : Bool) : (s.finishCompare d b).events = s.events := by rfl
@[simp] theorem State.draws_finishCompare (d : Word) (b : Bool) : (s.finishCompare d b).draws = s.draws := by rfl
@[simp] theorem State.cfg_finishCompare (d : Word) (b : Bool) : (s.finishCompare d b).cfg = s.cfg := by rfl
@[simp] theorem State.pc_finishCompare (d : Word) (b : Bool) : (s.finishCompare d b).pc = s.pc + 2#16 := rfl
@[simp] theorem State.sr_finishCompare (d : Word) (b : Bool) :
    (s.finishCompare d b).sr = updateFlags (some b) d s.sr := rfl
@[simp] theorem State.gpr_finishCompare (d : Word) (b : Bool) (k : Fin 14) :
    (s.finishCompare d b).gpr k = s.gpr k := rfl

/-! `branchIf` -/

@[simp] theorem State.regs_branchIf (t : Bool) (off : Int) : (s.branchIf t off).regs = s.regs := by cases t <;> rfl
@[simp] theorem State.sr_branchIf (t : Bool) (off : Int) : (s.branchIf t off).sr = s.sr := by cases t <;> rfl
@[simp] theorem State.epc_branchIf (t : Bool) (off : Int) : (s.branchIf t off).epc = s.epc := by cases t <;> rfl
@[simp] theorem State.esr_branchIf (t : Bool) (off : Int) : (s.branchIf t off).esr = s.esr := by cases t <;> rfl
@[simp] theorem State.eur_branchIf (t : Bool) (off : Int) : (s.branchIf t off).eur = s.eur := by cases t <;> rfl
@[simp] theorem State.enum_branchIf (t : Bool) (off : Int) : (s.branchIf t off).enum = s.enum := by cases t <;> rfl
@[simp] theorem State.vbr_branchIf (t : Bool) (off : Int) : (s.branchIf t off).vbr = s.vbr := by cases t <;> rfl
@[simp] theorem State.mem_branchIf (t : Bool) (off : Int) : (s.branchIf t off).mem = s.mem := by cases t <;> rfl
@[simp] theorem State.irqIn_branchIf (t : Bool) (off : Int) : (s.branchIf t off).irqIn = s.irqIn := by cases t <;> rfl
@[simp] theorem State.ioIn_branchIf (t : Bool) (off : Int) : (s.branchIf t off).ioIn = s.ioIn := by cases t <;> rfl
@[simp] theorem State.events_branchIf (t : Bool) (off : Int) : (s.branchIf t off).events = s.events := by cases t <;> rfl
@[simp] theorem State.draws_branchIf (t : Bool) (off : Int) : (s.branchIf t off).draws = s.draws := by cases t <;> rfl
@[simp] theorem State.cfg_branchIf (t : Bool) (off : Int) : (s.branchIf t off).cfg = s.cfg := by cases t <;> rfl
@[simp] theorem State.gpr_branchIf (t : Bool) (off : Int) (k : Fin 14) : (s.branchIf t off).gpr k = s.gpr k := by
  cases t <;> rfl
@[simp] theorem State.pc_branchIf (t : Bool) (off : Int) :
    (s.branchIf t off).pc = if t then s.branchTarget off else s.pc + 2#16 := by cases t <;> rfl
@[simp] theorem State.stale_branchIf (t : Bool) (off : Int) :
    (s.branchIf t off).stale = if t then [] else s.stale := by cases t <;> rfl

/-! `ioWrite` -/

@[simp] theorem State.regs_ioWrite (p v : Word) : (s.ioWrite p v).regs = s.regs := by unfold State.ioWrite; split <;> rfl
@[simp] theorem State.pc_ioWrite (p v : Word) : (s.ioWrite p v).pc = s.pc := by unfold State.ioWrite; split <;> rfl
@[simp] theorem State.sr_ioWrite (p v : Word) : (s.ioWrite p v).sr = s.sr := by unfold State.ioWrite; split <;> rfl
@[simp] theorem State.epc_ioWrite (p v : Word) : (s.ioWrite p v).epc = s.epc := by unfold State.ioWrite; split <;> rfl
@[simp] theorem State.esr_ioWrite (p v : Word) : (s.ioWrite p v).esr = s.esr := by unfold State.ioWrite; split <;> rfl
@[simp] theorem State.eur_ioWrite (p v : Word) : (s.ioWrite p v).eur = s.eur := by unfold State.ioWrite; split <;> rfl
@[simp] theorem State.enum_ioWrite (p v : Word) : (s.ioWrite p v).enum = s.enum := by unfold State.ioWrite; split <;> rfl
@[simp] theorem State.vbr_ioWrite (p v : Word) : (s.ioWrite p v).vbr = s.vbr := by unfold State.ioWrite; split <;> rfl
@[simp] theorem State.mem_ioWrite (p v : Word) : (s.ioWrite p v).mem = s.mem := by unfold State.ioWrite; split <;> rfl
@[simp] theorem State.stale_ioWrite (p v : Word) : (s.ioWrite p v).stale = s.stale := by unfold State.ioWrite; split <;> rfl
@[simp] theorem State.irqIn_ioWrite (p v : Word) : (s.ioWrite p v).irqIn = s.irqIn := by unfold State.ioWrite; split <;> rfl
@[simp] theorem State.ioIn_ioWrite (p v : Word) : (s.ioWrite p v).ioIn = s.ioIn := by unfold State.ioWrite; split <;> rfl
@[simp] theorem State.draws_ioWrite (p v : Word) : (s.ioWrite p v).draws = s.draws := by unfold State.ioWrite; split <;> rfl
@[simp] theorem State.cfg_ioWrite (p v : Word) : (s.ioWrite p v).cfg = s.cfg := by unfold State.ioWrite; split <;> rfl
@[simp] theorem State.gpr_ioWrite (p v : Word) (k : Fin 14) : (s.ioWrite p v).gpr k = s.gpr k := by
  unfold State.ioWrite; split <;> rfl
theorem State.events_ioWrite (p v : Word) :
    (s.ioWrite p v).events = if s.absentPort p then s.events else s.events ++ [.ioWrite p v] := by
  unfold State.ioWrite; split <;> rfl

/-! `afterIoRead` -/

@[simp] theorem State.regs_afterIoRead (p : Word) : (s.afterIoRead p).regs = s.regs := by unfold State.afterIoRead; split <;> simp
@[simp] theorem State.pc_afterIoRead (p : Word) : (s.afterIoRead p).pc = s.pc := by unfold State.afterIoRead; split <;> simp
@[simp] theorem State.sr_afterIoRead (p : Word) : (s.afterIoRead p).sr = s.sr := by unfold State.afterIoRead; split <;> simp
@[simp] theorem State.epc_afterIoRead (p : Word) : (s.afterIoRead p).epc = s.epc := by unfold State.afterIoRead; split <;> simp
@[simp] theorem State.esr_afterIoRead (p : Word) : (s.afterIoRead p).esr = s.esr := by unfold State.afterIoRead; split <;> simp
@[simp] theorem State.eur_afterIoRead (p : Word) : (s.afterIoRead p).eur = s.eur := by unfold State.afterIoRead; split <;> simp
@[simp] theorem State.enum_afterIoRead (p : Word) : (s.afterIoRead p).enum = s.enum := by unfold State.afterIoRead; split <;> simp
@[simp] theorem State.vbr_afterIoRead (p : Word) : (s.afterIoRead p).vbr = s.vbr := by unfold State.afterIoRead; split <;> simp
@[simp] theorem State.mem_afterIoRead (p : Word) : (s.afterIoRead p).mem = s.mem := by unfold State.afterIoRead; split <;> simp
@[simp] theorem State.stale_afterIoRead (p : Word) : (s.afterIoRead p).stale = s.stale := by unfold State.afterIoRead; split <;> simp
@[simp] theorem State.irqIn_afterIoRead (p : Word) : (s.afterIoRead p).irqIn = s.irqIn := by unfold State.afterIoRead; split <;> simp
@[simp] theorem State.cfg_afterIoRead (p : Word) : (s.afterIoRead p).cfg = s.cfg := by unfold State.afterIoRead; split <;> simp
@[simp] theorem State.gpr_afterIoRead (p : Word) (k : Fin 14) : (s.afterIoRead p).gpr k = s.gpr k := by
  unfold State.afterIoRead; split <;> simp
theorem State.events_afterIoRead (p : Word) :
    (s.afterIoRead p).events = if s.absentPort p then s.events else s.events ++ [.ioRead p (s.answer p)] := by
  unfold State.afterIoRead; split <;> simp

/-! `returnFromException` -/

@[simp] theorem State.epc_returnFromException (r : Reg) : (s.returnFromException r).epc = s.epc := by simp [State.returnFromException]
@[simp] theorem State.esr_returnFromException (r : Reg) : (s.returnFromException r).esr = s.esr := by simp [State.returnFromException]
@[simp] theorem State.eur_returnFromException (r : Reg) : (s.returnFromException r).eur = s.eur := by simp [State.returnFromException]
@[simp] theorem State.enum_returnFromException (r : Reg) : (s.returnFromException r).enum = s.enum := by simp [State.returnFromException]
@[simp] theorem State.vbr_returnFromException (r : Reg) : (s.returnFromException r).vbr = s.vbr := by simp [State.returnFromException]
@[simp] theorem State.mem_returnFromException (r : Reg) : (s.returnFromException r).mem = s.mem := by simp [State.returnFromException]
@[simp] theorem State.irqIn_returnFromException (r : Reg) : (s.returnFromException r).irqIn = s.irqIn := by simp [State.returnFromException]
@[simp] theorem State.ioIn_returnFromException (r : Reg) : (s.returnFromException r).ioIn = s.ioIn := by simp [State.returnFromException]
@[simp] theorem State.events_returnFromException (r : Reg) : (s.returnFromException r).events = s.events := by simp [State.returnFromException]
@[simp] theorem State.draws_returnFromException (r : Reg) : (s.returnFromException r).draws = s.draws := by simp [State.returnFromException]
@[simp] theorem State.cfg_returnFromException (r : Reg) : (s.returnFromException r).cfg = s.cfg := by simp [State.returnFromException]
@[simp] theorem State.gpr_returnFromException (r : Reg) (k : Fin 14) :
    (s.returnFromException r).gpr k = if r = .gpr k then s.eur else s.gpr k := by simp [State.returnFromException]
@[simp] theorem State.pc_returnFromException (r : Reg) : (s.returnFromException r).pc = s.epc := rfl
@[simp] theorem State.sr_returnFromException (r : Reg) : (s.returnFromException r).sr = s.esr := rfl
@[simp] theorem State.stale_returnFromException (r : Reg) : (s.returnFromException r).stale = [] := rfl

/-! `resetWith` -/

@[simp] theorem State.pc_resetWith (cfg : Config) : (State.resetWith cfg).pc = cfg.resetPc := rfl
@[simp] theorem State.sr_resetWith (cfg : Config) : (State.resetWith cfg).sr = cfg.resetSr := rfl
@[simp] theorem State.epc_resetWith (cfg : Config) : (State.resetWith cfg).epc = 0 := rfl
@[simp] theorem State.esr_resetWith (cfg : Config) : (State.resetWith cfg).esr = 0 := rfl
@[simp] theorem State.eur_resetWith (cfg : Config) : (State.resetWith cfg).eur = 0 := rfl
@[simp] theorem State.enum_resetWith (cfg : Config) : (State.resetWith cfg).enum = 0 := rfl
@[simp] theorem State.vbr_resetWith (cfg : Config) : (State.resetWith cfg).vbr = 0 := rfl
@[simp] theorem State.mem_resetWith (cfg : Config) : (State.resetWith cfg).mem = [] := rfl
@[simp] theorem State.stale_resetWith (cfg : Config) : (State.resetWith cfg).stale = [] := rfl
@[simp] theorem State.irqIn_resetWith (cfg : Config) : (State.resetWith cfg).irqIn = [] := rfl
@[simp] theorem State.ioIn_resetWith (cfg : Config) : (State.resetWith cfg).ioIn = [] := rfl
@[simp] theorem State.events_resetWith (cfg : Config) : (State.resetWith cfg).events = [] := rfl
@[simp] theorem State.draws_resetWith (cfg : Config) : (State.resetWith cfg).draws = 0 := rfl
@[simp] theorem State.cfg_resetWith (cfg : Config) : (State.resetWith cfg).cfg = cfg := rfl
@[simp] theorem State.gpr_resetWith (cfg : Config) (k : Fin 14) : (State.resetWith cfg).gpr k = 0 := by
  simp [State.resetWith, State.gpr]

end Sys2Proof.Machine
end

