-- ==== Sys2Proof/Laws/Ops.lean ====
section
/-! SUPPORT. One lemma per shared operation saying once all it can do; proofs cite these instead of unfolding. -/

namespace Sys2Proof.Machine

/-- An access that goes on had a value, and the state after is what becomes of it. -/
theorem orFault_next {α : Type} {access : Except Fault α} {go : α → State} {t : State} :
    orFault access go = .next t ↔ ∃ v, access = .ok v ∧ t = go v := by
  cases access <;> simp [orFault, eq_comm]

/-- A misaligned access is the model fault, whatever the policy: the spec admits one (R55). -/
@[simp] theorem onMisaligned_eq {α : Type} (p : MisalignedPolicy) (f : Fault) :
    (onMisaligned p f : Except Fault α) = .error f := by
  cases p; rfl

/-- A byte read: the address is mapped and the byte holds the value (R51, R56). -/
theorem memRead8_ok {s : State} {a : Word} {v : Byte} :
    memRead8 s a = .ok v ↔ s.kindOf a ≠ .unmapped ∧ Memory.read s.mem a.toNat = some v := by
  unfold memRead8
  cases hk : s.kindOf a <;> cases hm : Memory.read s.mem a.toNat <;> simp

/-- A word read: an even address, two bytes that can be read, joined in the byte order (R52, R55). -/
theorem memRead16_ok {s : State} {a w : Word} :
    memRead16 s a = .ok w ↔
      misaligned a = false ∧
        ∃ lower upper, memRead8 s a = .ok lower ∧ memRead8 s (a + 1#16) = .ok upper ∧
          w = joinBytes s.cfg.byteOrder lower upper := by
  unfold memRead16
  cases hm : misaligned a <;> cases h1 : memRead8 s a <;> cases h2 : memRead8 s (a + 1#16) <;>
    simp [eq_comm]

/-- A write is admitted exactly in RAM (R56). -/
theorem writeFault_none {s : State} {a : Word} : writeFault s a = none ↔ s.kindOf a = .ram := by
  unfold writeFault
  cases s.kindOf a <;> simp

/-- A byte write: the address is RAM, and the byte is stored (R53, R56). -/
theorem memWrite8_ok {s t : State} {a : Word} {v : Byte} :
    memWrite8 s a v = .ok t ↔ s.kindOf a = .ram ∧ t = s.storeByte a v := by
  unfold memWrite8
  rw [← writeFault_none]
  cases writeFault s a <;> simp [eq_comm]

/-- A word write: an even address, both bytes RAM, and both stored in the byte order (R54, R55, R56). -/
theorem memWrite16_ok {s t : State} {a v : Word} :
    memWrite16 s a v = .ok t ↔
      misaligned a = false ∧ s.kindOf a = .ram ∧ s.kindOf (a + 1#16) = .ram ∧
        t = (s.storeByte a (lowerByte s.cfg.byteOrder v)).storeByte (a + 1#16) (upperByte s.cfg.byteOrder v) := by
  unfold memWrite16
  rw [← writeFault_none, ← writeFault_none]
  cases misaligned a <;> cases writeFault s a <;> cases writeFault s (a + 1#16) <;> simp [eq_comm]

/-- Taking an exception: the vector gives a handler, and the machine is at its first instruction (R215). -/
theorem takeException_next {number ret : Word} {s t : State} :
    takeException number ret s = .next t ↔
      ∃ handler, vectorAddress s number = .ok handler ∧ t = s.enter number ret handler := orFault_next

/-- Taking an exception never refuses. -/
theorem takeException_ne_refused {number ret : Word} {s : State} {r : Refusal} :
    takeException number ret s ≠ .refused r := by
  unfold takeException orFault
  cases vectorAddress s number <;> simp

/-- The bytes a general register's bits 15:8 and 7:0 are, put together again (R52, R54). -/
theorem joinBytes_split (order : ByteOrder) (w : Word) :
    joinBytes order (lowerByte order w) (upperByte order w) = w := by
  have h : highByte w ++ lowByte w = w := by
    ext i hi
    simp only [highByte, lowByte, BitVec.getElem_append, BitVec.getElem_extractLsb']
    split
    · simp [BitVec.getLsbD_eq_getElem hi]
    · rw [show 8 + (i - 8) = i by omega, BitVec.getLsbD_eq_getElem hi]
  cases order <;> exact h

end Sys2Proof.Machine
end

