-- ==== Sys2Proof/Laws/Claims.lean ====
section
/-! SUPPORT. What the ends of instructions are in the terms of the claims, and what the accesses, the additions and
exception entry are in the terms of numbers: the lemmas that lead from a meaning to a statement about it. -/

namespace Sys2Proof.Machine

/-- An address is misaligned where it is odd (R55). -/
theorem misaligned_eq (a : Word) : misaligned a = decide (a.toNat % 2 = 1) := by
  simp [misaligned, BitVec.getLsbD, Nat.testBit_eq_decide_div_mod_eq]

/-- The number a joined word is (R52). -/
theorem joinBytes_toNat (order : ByteOrder) (lower upper : Byte) :
    (joinBytes order lower upper).toNat =
      match order with
      | .big => lower.toNat * 256 + upper.toNat
      | .little => upper.toNat * 256 + lower.toNat := by
  cases order <;> simp only [joinBytes, BitVec.toNat_append] <;>
    rw [← Nat.shiftLeft_add_eq_or_of_lt (BitVec.isLt _), Nat.shiftLeft_eq]

/-- The number the byte at the lower address is (R54). -/
theorem lowerByte_toNat (order : ByteOrder) (w : Word) :
    (lowerByte order w).toNat =
      match order with
      | .big => w.toNat / 256
      | .little => w.toNat % 256 := by
  have := w.isLt
  cases order <;> simp [lowerByte, highByte, lowByte, Nat.shiftRight_eq_div_pow]
  omega

/-- The number the byte at the next address is (R54). -/
theorem upperByte_toNat (order : ByteOrder) (w : Word) :
    (upperByte order w).toNat =
      match order with
      | .big => w.toNat % 256
      | .little => w.toNat / 256 := by
  have := w.isLt
  cases order <;> simp [upperByte, highByte, lowByte, Nat.shiftRight_eq_div_pow]
  omega

/-- Storing a byte keeps memory in canonical form. -/
theorem wf_storeByte {s : State} (h : Memory.wf s.mem = true) (a : Word) (v : Byte) :
    Memory.wf (s.storeByte a v).mem = true := Memory.wf_write _ _ _ a.isLt h

/-- Every byte after a word has been stored (R54). -/
theorem read_storeWord {s : State} (h : Memory.wf s.mem = true) (a : Word) (u v : Byte) (x : Nat) :
    Memory.read ((s.storeByte a u).storeByte (a + 1#16) v).mem x =
      if x = a.toNat then some u else if x = (a + 1#16).toNat then some v else Memory.read s.mem x := by
  have hne : (a + 1#16).toNat ≠ a.toNat := by bv_omega
  rw [State.mem_storeByte, Memory.read_write _ (wf_storeByte h _ _), State.mem_storeByte, Memory.read_write _ h]
  generalize (a + 1#16).toNat = y at *
  by_cases h1 : x = a.toNat
  · subst h1; simp [hne]
  · by_cases h2 : x = y
    · subst h2; simp [hne]
    · simp [h1, h2, Ne.symm h1, Ne.symm h2]

/-- The sum and the carry of R131 and R132 as numbers. -/
theorem addWithCarry_eq (a b : Word) (c : Bool) :
    addWithCarry a b c =
      (BitVec.ofNat 16 (a.toNat + b.toNat + c.toNat), decide (65536 ≤ a.toNat + b.toNat + c.toNat)) := by
  have ha := a.isLt
  have hb := b.isLt
  have hc : c.toNat ≤ 1 := by cases c <;> simp
  unfold addWithCarry
  ext1
  · apply BitVec.eq_of_toNat_eq
    simp [BitVec.extractLsb'_toNat]
  · simp only
    rw [BitVec.getLsbD, Nat.testBit_eq_decide_div_mod_eq]
    congr 1
    simp
    omega

end Sys2Proof.Machine

namespace Sys2Proof.Claims

open Sys2Proof.Machine

/-- Both bytes of a word readable, at an even address, is a word read that answers (R52). -/
theorem wordAt_iff {s : State} {a w : Word} : WordAt s a w ↔ memRead16 s a = .ok w := by
  rw [memRead16_ok, misaligned_eq]
  simp only [memRead8_ok]
  unfold WordAt
  constructor
  · rintro ⟨h1, h2, h3, l, u, h4, h5, h6⟩
    refine ⟨by simp [h1], l, u, ⟨h2, h4⟩, ⟨h3, h5⟩, BitVec.eq_of_toNat_eq ?_⟩
    rw [h6, joinBytes_toNat]
    all_goals cases s.cfg.byteOrder <;> rfl
  · rintro ⟨h1, l, u, ⟨h2, h4⟩, ⟨h3, h5⟩, rfl⟩
    refine ⟨by simp at h1; omega, h2, h3, l, u, h4, h5, ?_⟩
    rw [joinBytes_toNat]
    all_goals cases s.cfg.byteOrder <;> rfl

/-- A handler is found where the vector gives its address (R217). -/
theorem handlerAt_iff {s : State} {number handler : Word} :
    HandlerAt s number handler ↔ vectorAddress s number = .ok handler := by
  unfold HandlerAt vectorAddress
  cases s.cfg.vectorMode
  · exact wordAt_iff
  · simp [eq_comm]

/-- The window as the store's own test decides it (R65). -/
theorem inFetchWindow_iff {s : State} {x : Word} : InFetchWindow s x ↔ s.inWindow x = true := by
  unfold InFetchWindow State.inWindow
  rw [decide_eq_true_iff]
  constructor
  · rintro ⟨k, h1, h2, rfl⟩
    have : s.cfg.pcAhead.bytes ≤ 8 := by cases s.cfg.pcAhead <;> decide
    bv_omega
  · intro h
    have hb : s.cfg.pcAhead.bytes ≤ 8 := by cases s.cfg.pcAhead <;> decide
    exact ⟨(x - (s.pc + 2#16)).toNat + 2, by omega, by omega, by bv_omega⟩

/-- SR after a flag update (R30). -/
theorem flagsOn_update (sr res : Word) (c : Option Bool) : FlagsOn sr (updateFlags c res sr) res c := by
  refine ⟨?_, ?_, ?_, fun j h1 h2 h3 => ?_⟩
  · simp only [flagN, getLsbD_updateFlags, BitVec.msb_eq_decide]
    simp
  · simp only [flagZ, getLsbD_updateFlags, if_true]
    rw [beq_eq_decide]
    congr 1
    rw [BitVec.toNat_eq]
    simp
  · simp only [flagC, getLsbD_updateFlags]
    simp
  · simp [getLsbD_updateFlags, h1, h2, h3]

/-- An instruction that ends by writing rD. -/
theorem yields_of_finish {i : Instr} {s : State} {r : Reg} {v : Word} (h : exec i s = .next (s.finish r v)) :
    Yields i s r v :=
  ⟨_, h, ⟨by simp, by simp, by simp⟩, by simp [SrWritten],
    ⟨by simp [SameExceptionRegs], by simp [SameMemory], by simp [SameEnvironment]⟩⟩

/-- An instruction that ends by writing rD and the flags (R130). -/
theorem yields_of_finishWithFlags {i : Instr} {s : State} {r : Reg} {v : Word} {c : Option Bool}
    (h : exec i s = .next (s.finishWithFlags r v c)) : YieldsWithFlags i s r v c := by
  refine ⟨_, h, ⟨by simp, by simp, by simp⟩, ?_,
    ⟨by simp [SameExceptionRegs], by simp [SameMemory], by simp [SameEnvironment]⟩⟩
  unfold FlagsSet
  rw [State.sr_finishWithFlags]
  by_cases hr : r = .sr <;> simp only [hr, if_true, if_false] <;> cases s.cfg.srWriteOrder <;> simp only <;>
    exact flagsOn_update _ _ _

/-- An instruction that ends by setting the flags alone (R169). -/
theorem compares_of_finishCompare {i : Instr} {s : State} {d : Word} {b : Bool}
    (h : exec i s = .next (s.finishCompare d b)) : Compares i s d b :=
  ⟨_, h, ⟨by simp, rfl, rfl⟩, by rw [State.sr_finishCompare]; exact flagsOn_update _ _ _,
    ⟨⟨rfl, rfl, rfl, rfl, rfl⟩, fun _ => rfl, ⟨rfl, rfl, rfl, rfl, rfl⟩⟩⟩

/-- An instruction that ends as a branch (R150). -/
theorem branches_of_branchIf {i : Instr} {s : State} {taken : Bool} {off : Int}
    (h : exec i s = .next (s.branchIf taken off)) : BranchesIf i s taken off := by
  refine ⟨_, h, by simp [State.branchTarget, State.pcRead, immWord], by simp, ?_, by simp, ?_⟩
  · cases taken <;> rfl
  · cases taken <;> exact ⟨⟨rfl, rfl, rfl, rfl, rfl⟩, fun _ => rfl, ⟨rfl, rfl, rfl, rfl, rfl⟩⟩

/-- The state exception entry makes (R215). -/
theorem entered_enter (s : State) (number ret handler : Word) :
    Entered s (s.enter number ret handler) number ret handler := by
  refine ⟨rfl, rfl, rfl, fun j => ?_, rfl, rfl, rfl, fun _ => rfl, fun _ => rfl, rfl⟩
  simp only [State.enter, getLsbD_clearEnables]
  congr 1
  simp
  omega

end Sys2Proof.Claims
end

