-- ==== Sys2Proof/Laws/Encoding.lean ====
section
/-! SUPPORT. The nibbles of a packed word and the fields read back from it, for proofs about the encoding. -/

namespace Sys2Proof

theorem packNibbles_toNat (n3 n2 n1 n0 : BitVec 4) :
    (packNibbles n3 n2 n1 n0).toNat = n3.toNat * 4096 + n2.toNat * 256 + n1.toNat * 16 + n0.toNat := by
  simp only [packNibbles, BitVec.toNat_append]
  rw [← Nat.shiftLeft_add_eq_or_of_lt n2.isLt, ← Nat.shiftLeft_add_eq_or_of_lt n1.isLt,
    ← Nat.shiftLeft_add_eq_or_of_lt n0.isLt]
  simp only [Nat.shiftLeft_eq]
  omega

theorem packI8_toNat (top : BitVec 4) (imm8 : BitVec 8) (op : BitVec 4) :
    (packI8 top imm8 op).toNat = top.toNat * 4096 + imm8.toNat * 16 + op.toNat := by
  simp only [packI8, BitVec.toNat_append]
  rw [← Nat.shiftLeft_add_eq_or_of_lt imm8.isLt, ← Nat.shiftLeft_add_eq_or_of_lt op.isLt]
  simp only [Nat.shiftLeft_eq]
  omega

theorem nibbleAt_toNat (w : Word) (lo : Nat) : (nibbleAt w lo).toNat = w.toNat / 2 ^ lo % 16 := by
  simp [nibbleAt, Nat.shiftRight_eq_div_pow]

@[simp] theorem nibbleAt_packNibbles_12 (n3 n2 n1 n0 : BitVec 4) : nibbleAt (packNibbles n3 n2 n1 n0) 12 = n3 := by
  apply BitVec.eq_of_toNat_eq; rw [nibbleAt_toNat, packNibbles_toNat]; omega

@[simp] theorem nibbleAt_packNibbles_8 (n3 n2 n1 n0 : BitVec 4) : nibbleAt (packNibbles n3 n2 n1 n0) 8 = n2 := by
  apply BitVec.eq_of_toNat_eq; rw [nibbleAt_toNat, packNibbles_toNat]; omega

@[simp] theorem nibbleAt_packNibbles_4 (n3 n2 n1 n0 : BitVec 4) : nibbleAt (packNibbles n3 n2 n1 n0) 4 = n1 := by
  apply BitVec.eq_of_toNat_eq; rw [nibbleAt_toNat, packNibbles_toNat]; omega

@[simp] theorem nibbleAt_packNibbles_0 (n3 n2 n1 n0 : BitVec 4) : nibbleAt (packNibbles n3 n2 n1 n0) 0 = n0 := by
  apply BitVec.eq_of_toNat_eq; rw [nibbleAt_toNat, packNibbles_toNat]; omega

/-- An 8-bit field in bits 11:4 is two nibbles. -/
theorem packI8_eq_packNibbles (top : BitVec 4) (imm8 : BitVec 8) (op : BitVec 4) :
    packI8 top imm8 op = packNibbles top (imm8.extractLsb' 4 4) (imm8.extractLsb' 0 4) op := by
  apply BitVec.eq_of_toNat_eq
  rw [packI8_toNat, packNibbles_toNat]
  simp only [BitVec.extractLsb'_toNat, Nat.shiftRight_eq_div_pow]
  omega

/-- The two halves of an 8-bit field, put together again. -/
@[simp] theorem append_nibbles (b : BitVec 8) : b.extractLsb' 4 4 ++ b.extractLsb' 0 4 = b := by
  apply BitVec.eq_of_toNat_eq
  rw [BitVec.toNat_append, ← Nat.shiftLeft_add_eq_or_of_lt (BitVec.isLt _)]
  simp only [BitVec.extractLsb'_toNat, Nat.shiftRight_eq_div_pow, Nat.shiftLeft_eq]
  omega

/-- Every word is made of its four nibbles. -/
theorem packNibbles_nibbleAt (w : Word) :
    packNibbles (nibbleAt w 12) (nibbleAt w 8) (nibbleAt w 4) (nibbleAt w 0) = w := by
  apply BitVec.eq_of_toNat_eq
  rw [packNibbles_toNat]
  simp only [nibbleAt_toNat]
  omega

@[simp] theorem regOfNibble_nibbleOfReg (r : Reg) : regOfNibble (nibbleOfReg r) = r := by
  cases r with
  | gpr i => revert i; decide
  | pc => rfl
  | sr => rfl

@[simp] theorem nibbleOfReg_regOfNibble (n : BitVec 4) : nibbleOfReg (regOfNibble n) = n := by
  revert n; decide

/-! ### The tables `ENC2` and `ENC1`: a row's code stands for the row, and a row found at a code has that code -/

/-- In a list that holds what `all` does, the entry at an element's index is the element. -/
theorem getD_idxOf {α : Type} [DecidableEq α] {rows all : List α} {r d : α} (h : rows.Perm all) (hr : r ∈ all) :
    rows.getD (rows.idxOf r) d = r := by
  have hi := List.idxOf_lt_length_of_mem (h.mem_iff.2 hr)
  rw [List.getD_eq_getElem _ _ hi, List.getElem_idxOf]

/-- In a list with no repeats, the index of the entry at a place is the place. -/
theorem idxOf_getD {α : Type} [DecidableEq α] {rows all : List α} {d : α} {k : Nat} (h : rows.Perm all)
    (hn : all.Nodup) (hk : k < rows.length) : rows.idxOf (rows.getD k d) = k := by
  rw [List.getD_eq_getElem _ _ hk, (h.nodup_iff.2 hn).idxOf_getElem]

theorem Enc2Row.mem_all (r : Enc2Row) : r ∈ Enc2Row.all := by cases r <;> decide

theorem Enc1Row.mem_all (r : Enc1Row) : r ∈ Enc1Row.all := by cases r <;> decide

/-- Every row of the two tables stands at one code (R87, R88). -/
theorem Config.perm_of_encodingsAssigned {c : Config} (h : c.encodingsAssigned = true) :
    c.enc2.toList.Perm Enc2Row.all ∧ c.enc1.toList.Perm Enc1Row.all := by
  simpa [Config.encodingsAssigned, List.isPerm_iff] using h

/-- A row's number in `ENC2` is one of the ten codes from 0x6 on. -/
theorem Config.code2_toNat {c : Config} (h : c.encodingsAssigned = true) (r : Enc2Row) :
    (c.code2 r).toNat = c.enc2.toList.idxOf r + 6 ∧ c.enc2.toList.idxOf r < 10 := by
  have hi := List.idxOf_lt_length_of_mem ((Config.perm_of_encodingsAssigned h).1.mem_iff.2 r.mem_all)
  rw [Vector.length_toList] at hi
  exact ⟨by rw [Config.code2, BitVec.toNat_ofNat]; omega, hi⟩

/-- A row's code stands for the row (R87). -/
theorem Config.enc2At_code2 {c : Config} (h : c.encodingsAssigned = true) (r : Enc2Row) :
    c.enc2At ((c.code2 r).toNat - 6) = r := by
  rw [(Config.code2_toNat h r).1]
  exact getD_idxOf (Config.perm_of_encodingsAssigned h).1 r.mem_all

/-- A code is that of the row it stands for (R87). -/
theorem Config.code2_enc2At {c : Config} (h : c.encodingsAssigned = true) {k : Nat} (hk : k < 10) :
    c.code2 (c.enc2At k) = BitVec.ofNat 4 (6 + k) := by
  rw [Config.code2, Config.enc2At,
    idxOf_getD (Config.perm_of_encodingsAssigned h).1 (by decide) (by rw [Vector.length_toList]; exact hk)]

/-- A row's code stands for the row (R88). -/
theorem Config.enc1At_code1 {c : Config} (h : c.encodingsAssigned = true) (r : Enc1Row) :
    c.enc1At (c.code1 r).toNat = r := by
  have hp := (Config.perm_of_encodingsAssigned h).2
  have hi := List.idxOf_lt_length_of_mem (hp.mem_iff.2 r.mem_all)
  rw [Vector.length_toList] at hi
  rw [Config.code1, BitVec.toNat_ofNat, Nat.mod_eq_of_lt (by omega)]
  exact getD_idxOf hp r.mem_all

/-- A code is that of the row it stands for (R88). -/
theorem Config.code1_enc1At {c : Config} (h : c.encodingsAssigned = true) (n : BitVec 4) :
    c.code1 (c.enc1At n.toNat) = n := by
  rw [Config.code1, Config.enc1At,
    idxOf_getD (Config.perm_of_encodingsAssigned h).2 (by decide) (by rw [Vector.length_toList]; exact n.isLt)]
  simp

/-- A second-level code of the table decodes to the instruction of its row (R87). -/
theorem decodeSub2_code2 {c : Config} (h : c.encodingsAssigned = true) (r : Enc2Row) (mid top : BitVec 4) :
    decodeSub2 c (c.code2 r) mid top = decodeEnc2 c r mid top := by
  have hr := Config.enc2At_code2 h r
  rw [(Config.code2_toNat h r).1] at hr
  unfold decodeSub2
  rw [(Config.code2_toNat h r).1]
  simpa using congrArg (decodeEnc2 c · mid top) hr

end Sys2Proof
end

