-- ==== Sys2Proof/Laws/PerInstr.lean ====
section
/-! SUPPORT. Families of statements made per instruction. `FixedBits`: the fixed fields of an instruction's word are
those of its row of spec/opcode_table.json (spec/30_encoding.md R89, R87, R88). -/

namespace Sys2Proof.Laws

/-- The fixed fields of the row an instruction belongs to: lowest bit, width, value. -/
def FixedBits.fields : Instr → List (Nat × Nat × Nat)
  | .ldim .. => [(0, 4, 0)]
  | .ldimh .. => [(0, 4, 1)]
  | .ld8 .. => [(0, 4, 2)]
  | .ld16 .. => [(0, 4, 3)]
  | .str8 .. => [(0, 4, 4)]
  | .str16 .. => [(0, 4, 5)]
  | .add .. => [(0, 4, 6)]
  | .adc .. => [(0, 4, 7)]
  | .and .. => [(0, 4, 8)]
  | .or .. => [(0, 4, 9)]
  | .xor .. => [(0, 4, 10)]
  | .lsl .. => [(0, 4, 11)]
  | .lsr .. => [(0, 4, 12)]
  | .asr .. => [(0, 4, 13)]
  | .bra .. => [(0, 4, 14), (12, 4, 0)]
  | .brf .. => [(0, 4, 14), (12, 4, 1)]
  | .beq .. => [(0, 4, 14), (12, 4, 2)]
  | .bne .. => [(0, 4, 14), (12, 4, 3)]
  | .bmi .. => [(0, 4, 14), (12, 4, 4)]
  | .bpl .. => [(0, 4, 14), (12, 4, 5)]
  | .bcs .. => [(0, 4, 14), (12, 4, 6)]
  | .bcc .. => [(0, 4, 14), (12, 4, 7)]
  | .bgr .. => [(0, 4, 14), (12, 4, 8)]
  | .ble .. => [(0, 4, 14), (12, 4, 9)]
  | .mov .. => [(0, 8, 15)]
  | .neg .. => [(0, 8, 31)]
  | .not .. => [(0, 8, 47)]
  | .cmp .. => [(0, 8, 63)]
  | .call .. => [(0, 8, 79)]
  | .swap .. => [(0, 8, 95)]
  | .inp .. => [(0, 8, 111)]
  | .out .. => [(0, 8, 127)]
  | .ini .. => [(0, 8, 143)]
  | .outi .. => [(0, 8, 159)]
  | .addi .. => [(0, 8, 175)]
  | .andi .. => [(0, 8, 191)]
  | .ori .. => [(0, 8, 207)]
  | .lsli .. => [(0, 8, 223), (11, 1, 0)]
  | .lsri .. => [(0, 8, 223), (11, 1, 1)]
  | .cmpi .. => [(0, 8, 239)]
  | .reti .. => [(0, 12, 255)]
  | .trap .. => [(0, 12, 511)]
  | .trapi .. => [(0, 12, 767)]
  | .getepc .. => [(0, 12, 1023)]
  | .setepc .. => [(0, 12, 1279)]
  | .getesr .. => [(0, 12, 1535)]
  | .setesr .. => [(0, 12, 1791)]
  | .geteur .. => [(0, 12, 2047)]
  | .seteur .. => [(0, 12, 2303)]
  | .getenum .. => [(0, 12, 2559)]
  | .setenum .. => [(0, 12, 2815)]
  | .getvbr .. => [(0, 12, 3071)]
  | .setvbr .. => [(0, 12, 3327)]
  | .invalidCc10 .. => [(0, 4, 14), (12, 4, 10)]
  | .invalidCc11 .. => [(0, 4, 14), (12, 4, 11)]
  | .invalidCc12 .. => [(0, 4, 14), (12, 4, 12)]
  | .invalidCc13 .. => [(0, 4, 14), (12, 4, 13)]
  | .invalidCc14 .. => [(0, 4, 14), (12, 4, 14)]
  | .invalidCc15 .. => [(0, 4, 14), (12, 4, 15)]
  | .invalidSub1D .. => [(0, 12, 3583)]
  | .invalidSub1E .. => [(0, 12, 3839)]
  | .invalidSub1F .. => [(0, 12, 4095)]

/-- Each of the fields holds its value in the word. -/
def FixedBits.Holds (w : Word) (fields : List (Nat × Nat × Nat)) : Prop :=
  ∀ f ∈ fields, w.toNat / 2 ^ f.1 % 2 ^ f.2.1 = f.2.2

/-- Each fixed field of the instruction's word, under the tables of the default configuration, holds its row's value. -/
def FixedBits.Statement (i : Instr) : Prop := FixedBits.Holds (encode Machine.defaultConfig i) (FixedBits.fields i)

/-- Format I8 fixes its primary opcode. -/
theorem holds_packI8 (top : BitVec 4) (imm8 : BitVec 8) (op : BitVec 4) :
    FixedBits.Holds (packI8 top imm8 op) [(0, 4, op.toNat)] := by
  simp [FixedBits.Holds, packI8_toNat]; omega

/-- Format B fixes its condition too. -/
theorem holds_branch (cc : BitVec 4) (off8 : BitVec 8) :
    FixedBits.Holds (packI8 cc off8 0xE#4) [(0, 4, 14), (12, 4, cc.toNat)] := by
  simp [FixedBits.Holds, packI8_toNat]; omega

/-- Format R3 fixes its primary opcode. -/
theorem holds_packR3 (rA rB rD : Reg) (op : BitVec 4) : FixedBits.Holds (packR3 rA rB rD op) [(0, 4, op.toNat)] := by
  simp [FixedBits.Holds, packR3, packNibbles_toNat]; omega

/-- Formats R2 and I4 fix bits 7:0. -/
theorem holds_low8 (top mid sub2 : BitVec 4) :
    FixedBits.Holds (packNibbles top mid sub2 0xF#4) [(0, 8, sub2.toNat * 16 + 15)] := by
  simp [FixedBits.Holds, packNibbles_toNat]; omega

/-- The immediate shifts fix bit 11 too. -/
theorem holds_shift (rD : Reg) (dir : Bool) (im : Nat) :
    FixedBits.Holds (packShift Machine.defaultConfig dir im rD) [(0, 8, 223), (11, 1, dir.toNat)] := by
  have h : (BitVec.ofBool dir ++ fieldOfCount im).toNat = dir.toNat * 8 + (fieldOfCount im).toNat := by
    rw [BitVec.toNat_append, ← Nat.shiftLeft_add_eq_or_of_lt (fieldOfCount im).isLt, Nat.shiftLeft_eq,
      BitVec.toNat_ofBool]
  have h8 : (Machine.defaultConfig.code2 .shift).toNat = 13 := by decide
  have hd : dir.toNat ≤ 1 := by cases dir <;> decide
  have hf := (fieldOfCount im).isLt
  simp only [FixedBits.Holds, packShift, packI4, packNibbles_toNat, h, h8, List.forall_mem_cons, List.not_mem_nil]
  simp
  omega

/-- Format R1 fixes bits 11:0. -/
theorem holds_packR1 (top : BitVec 4) (row : Enc1Row) :
    FixedBits.Holds (packR1 Machine.defaultConfig top row)
      [(0, 12, (Machine.defaultConfig.code1 row).toNat * 256 + 255)] := by
  have h15 : (Machine.defaultConfig.code2 .escape).toNat = 15 := by decide
  simp [FixedBits.Holds, packR1, packNibbles_toNat, h15]; omega

end Sys2Proof.Laws

theorem Sys2Proof.Laws.FixedBits.ldim (im : Int) (rD : Sys2Proof.Reg) :
    Sys2Proof.Laws.FixedBits.Statement (.ldim im rD) := Sys2Proof.Laws.holds_packI8 _ _ _

theorem Sys2Proof.Laws.FixedBits.ldimh (im : Nat) (rD : Sys2Proof.Reg) :
    Sys2Proof.Laws.FixedBits.Statement (.ldimh im rD) := Sys2Proof.Laws.holds_packI8 _ _ _

theorem Sys2Proof.Laws.FixedBits.ld8 (rA rB rD : Sys2Proof.Reg) :
    Sys2Proof.Laws.FixedBits.Statement (.ld8 rA rB rD) := Sys2Proof.Laws.holds_packR3 _ _ _ _

theorem Sys2Proof.Laws.FixedBits.ld16 (rA rB rD : Sys2Proof.Reg) :
    Sys2Proof.Laws.FixedBits.Statement (.ld16 rA rB rD) := Sys2Proof.Laws.holds_packR3 _ _ _ _

theorem Sys2Proof.Laws.FixedBits.str8 (rA rB rD : Sys2Proof.Reg) :
    Sys2Proof.Laws.FixedBits.Statement (.str8 rA rB rD) := Sys2Proof.Laws.holds_packR3 _ _ _ _

theorem Sys2Proof.Laws.FixedBits.str16 (rA rB rD : Sys2Proof.Reg) :
    Sys2Proof.Laws.FixedBits.Statement (.str16 rA rB rD) := Sys2Proof.Laws.holds_packR3 _ _ _ _

theorem Sys2Proof.Laws.FixedBits.add (rA rB rD : Sys2Proof.Reg) :
    Sys2Proof.Laws.FixedBits.Statement (.add rA rB rD) := Sys2Proof.Laws.holds_packR3 _ _ _ _

theorem Sys2Proof.Laws.FixedBits.adc (rA rB rD : Sys2Proof.Reg) :
    Sys2Proof.Laws.FixedBits.Statement (.adc rA rB rD) := Sys2Proof.Laws.holds_packR3 _ _ _ _

theorem Sys2Proof.Laws.FixedBits.and (rA rB rD : Sys2Proof.Reg) :
    Sys2Proof.Laws.FixedBits.Statement (.and rA rB rD) := Sys2Proof.Laws.holds_packR3 _ _ _ _

theorem Sys2Proof.Laws.FixedBits.or (rA rB rD : Sys2Proof.Reg) :
    Sys2Proof.Laws.FixedBits.Statement (.or rA rB rD) := Sys2Proof.Laws.holds_packR3 _ _ _ _

theorem Sys2Proof.Laws.FixedBits.xor (rA rB rD : Sys2Proof.Reg) :
    Sys2Proof.Laws.FixedBits.Statement (.xor rA rB rD) := Sys2Proof.Laws.holds_packR3 _ _ _ _

theorem Sys2Proof.Laws.FixedBits.lsl (rA rB rD : Sys2Proof.Reg) :
    Sys2Proof.Laws.FixedBits.Statement (.lsl rA rB rD) := Sys2Proof.Laws.holds_packR3 _ _ _ _

theorem Sys2Proof.Laws.FixedBits.lsr (rA rB rD : Sys2Proof.Reg) :
    Sys2Proof.Laws.FixedBits.Statement (.lsr rA rB rD) := Sys2Proof.Laws.holds_packR3 _ _ _ _

theorem Sys2Proof.Laws.FixedBits.asr (rA rB rD : Sys2Proof.Reg) :
    Sys2Proof.Laws.FixedBits.Statement (.asr rA rB rD) := Sys2Proof.Laws.holds_packR3 _ _ _ _

theorem Sys2Proof.Laws.FixedBits.bra (off : Int) :
    Sys2Proof.Laws.FixedBits.Statement (.bra off) := Sys2Proof.Laws.holds_branch _ _

theorem Sys2Proof.Laws.FixedBits.brf (off : Int) :
    Sys2Proof.Laws.FixedBits.Statement (.brf off) := Sys2Proof.Laws.holds_branch _ _

theorem Sys2Proof.Laws.FixedBits.beq (off : Int) :
    Sys2Proof.Laws.FixedBits.Statement (.beq off) := Sys2Proof.Laws.holds_branch _ _

theorem Sys2Proof.Laws.FixedBits.bne (off : Int) :
    Sys2Proof.Laws.FixedBits.Statement (.bne off) := Sys2Proof.Laws.holds_branch _ _

theorem Sys2Proof.Laws.FixedBits.bmi (off : Int) :
    Sys2Proof.Laws.FixedBits.Statement (.bmi off) := Sys2Proof.Laws.holds_branch _ _

theorem Sys2Proof.Laws.FixedBits.bpl (off : Int) :
    Sys2Proof.Laws.FixedBits.Statement (.bpl off) := Sys2Proof.Laws.holds_branch _ _

theorem Sys2Proof.Laws.FixedBits.bcs (off : Int) :
    Sys2Proof.Laws.FixedBits.Statement (.bcs off) := Sys2Proof.Laws.holds_branch _ _

theorem Sys2Proof.Laws.FixedBits.bcc (off : Int) :
    Sys2Proof.Laws.FixedBits.Statement (.bcc off) := Sys2Proof.Laws.holds_branch _ _

theorem Sys2Proof.Laws.FixedBits.bgr (off : Int) :
    Sys2Proof.Laws.FixedBits.Statement (.bgr off) := Sys2Proof.Laws.holds_branch _ _

theorem Sys2Proof.Laws.FixedBits.ble (off : Int) :
    Sys2Proof.Laws.FixedBits.Statement (.ble off) := Sys2Proof.Laws.holds_branch _ _

theorem Sys2Proof.Laws.FixedBits.mov (rA rD : Sys2Proof.Reg) :
    Sys2Proof.Laws.FixedBits.Statement (.mov rA rD) := Sys2Proof.Laws.holds_low8 _ _ _

theorem Sys2Proof.Laws.FixedBits.neg (rA rD : Sys2Proof.Reg) :
    Sys2Proof.Laws.FixedBits.Statement (.neg rA rD) := Sys2Proof.Laws.holds_low8 _ _ _

theorem Sys2Proof.Laws.FixedBits.not (rA rD : Sys2Proof.Reg) :
    Sys2Proof.Laws.FixedBits.Statement (.not rA rD) := Sys2Proof.Laws.holds_low8 _ _ _

theorem Sys2Proof.Laws.FixedBits.cmp (rA rD : Sys2Proof.Reg) :
    Sys2Proof.Laws.FixedBits.Statement (.cmp rA rD) := Sys2Proof.Laws.holds_low8 _ _ _

theorem Sys2Proof.Laws.FixedBits.call (rA rD : Sys2Proof.Reg) :
    Sys2Proof.Laws.FixedBits.Statement (.call rA rD) := Sys2Proof.Laws.holds_low8 _ _ _

theorem Sys2Proof.Laws.FixedBits.swap (rA rD : Sys2Proof.Reg) :
    Sys2Proof.Laws.FixedBits.Statement (.swap rA rD) := Sys2Proof.Laws.holds_low8 _ _ _

theorem Sys2Proof.Laws.FixedBits.inp (rA rD : Sys2Proof.Reg) :
    Sys2Proof.Laws.FixedBits.Statement (.inp rA rD) := Sys2Proof.Laws.holds_low8 _ _ _

theorem Sys2Proof.Laws.FixedBits.out (rA rD : Sys2Proof.Reg) :
    Sys2Proof.Laws.FixedBits.Statement (.out rA rD) := Sys2Proof.Laws.holds_low8 _ _ _

theorem Sys2Proof.Laws.FixedBits.ini (im : Nat) (rD : Sys2Proof.Reg) :
    Sys2Proof.Laws.FixedBits.Statement (.ini im rD) := Sys2Proof.Laws.holds_low8 _ _ _

theorem Sys2Proof.Laws.FixedBits.outi (im : Nat) (rD : Sys2Proof.Reg) :
    Sys2Proof.Laws.FixedBits.Statement (.outi im rD) := Sys2Proof.Laws.holds_low8 _ _ _

theorem Sys2Proof.Laws.FixedBits.addi (im : Int) (rD : Sys2Proof.Reg) :
    Sys2Proof.Laws.FixedBits.Statement (.addi im rD) := Sys2Proof.Laws.holds_low8 _ _ _

theorem Sys2Proof.Laws.FixedBits.andi (im : Int) (rD : Sys2Proof.Reg) :
    Sys2Proof.Laws.FixedBits.Statement (.andi im rD) := Sys2Proof.Laws.holds_low8 _ _ _

theorem Sys2Proof.Laws.FixedBits.ori (im : Int) (rD : Sys2Proof.Reg) :
    Sys2Proof.Laws.FixedBits.Statement (.ori im rD) := Sys2Proof.Laws.holds_low8 _ _ _

theorem Sys2Proof.Laws.FixedBits.lsli (im : Nat) (rD : Sys2Proof.Reg) :
    Sys2Proof.Laws.FixedBits.Statement (.lsli im rD) := Sys2Proof.Laws.holds_shift _ _ _

theorem Sys2Proof.Laws.FixedBits.lsri (im : Nat) (rD : Sys2Proof.Reg) :
    Sys2Proof.Laws.FixedBits.Statement (.lsri im rD) := Sys2Proof.Laws.holds_shift _ _ _

theorem Sys2Proof.Laws.FixedBits.cmpi (im : Int) (rD : Sys2Proof.Reg) :
    Sys2Proof.Laws.FixedBits.Statement (.cmpi im rD) := Sys2Proof.Laws.holds_low8 _ _ _

theorem Sys2Proof.Laws.FixedBits.reti (rD : Sys2Proof.Reg) :
    Sys2Proof.Laws.FixedBits.Statement (.reti rD) := Sys2Proof.Laws.holds_packR1 _ _

theorem Sys2Proof.Laws.FixedBits.trap (rD : Sys2Proof.Reg) :
    Sys2Proof.Laws.FixedBits.Statement (.trap rD) := Sys2Proof.Laws.holds_packR1 _ _

theorem Sys2Proof.Laws.FixedBits.trapi (im : Nat) :
    Sys2Proof.Laws.FixedBits.Statement (.trapi im) := Sys2Proof.Laws.holds_packR1 _ _

theorem Sys2Proof.Laws.FixedBits.getepc (rD : Sys2Proof.Reg) :
    Sys2Proof.Laws.FixedBits.Statement (.getepc rD) := Sys2Proof.Laws.holds_packR1 _ _

theorem Sys2Proof.Laws.FixedBits.setepc (rD : Sys2Proof.Reg) :
    Sys2Proof.Laws.FixedBits.Statement (.setepc rD) := Sys2Proof.Laws.holds_packR1 _ _

theorem Sys2Proof.Laws.FixedBits.getesr (rD : Sys2Proof.Reg) :
    Sys2Proof.Laws.FixedBits.Statement (.getesr rD) := Sys2Proof.Laws.holds_packR1 _ _

theorem Sys2Proof.Laws.FixedBits.setesr (rD : Sys2Proof.Reg) :
    Sys2Proof.Laws.FixedBits.Statement (.setesr rD) := Sys2Proof.Laws.holds_packR1 _ _

theorem Sys2Proof.Laws.FixedBits.geteur (rD : Sys2Proof.Reg) :
    Sys2Proof.Laws.FixedBits.Statement (.geteur rD) := Sys2Proof.Laws.holds_packR1 _ _

theorem Sys2Proof.Laws.FixedBits.seteur (rD : Sys2Proof.Reg) :
    Sys2Proof.Laws.FixedBits.Statement (.seteur rD) := Sys2Proof.Laws.holds_packR1 _ _

theorem Sys2Proof.Laws.FixedBits.getenum (rD : Sys2Proof.Reg) :
    Sys2Proof.Laws.FixedBits.Statement (.getenum rD) := Sys2Proof.Laws.holds_packR1 _ _

theorem Sys2Proof.Laws.FixedBits.setenum (rD : Sys2Proof.Reg) :
    Sys2Proof.Laws.FixedBits.Statement (.setenum rD) := Sys2Proof.Laws.holds_packR1 _ _

theorem Sys2Proof.Laws.FixedBits.getvbr (rD : Sys2Proof.Reg) :
    Sys2Proof.Laws.FixedBits.Statement (.getvbr rD) := Sys2Proof.Laws.holds_packR1 _ _

theorem Sys2Proof.Laws.FixedBits.setvbr (rD : Sys2Proof.Reg) :
    Sys2Proof.Laws.FixedBits.Statement (.setvbr rD) := Sys2Proof.Laws.holds_packR1 _ _

theorem Sys2Proof.Laws.FixedBits.invalidCc10 (off8 : BitVec 8) :
    Sys2Proof.Laws.FixedBits.Statement (.invalidCc10 off8) := Sys2Proof.Laws.holds_branch _ _

theorem Sys2Proof.Laws.FixedBits.invalidCc11 (off8 : BitVec 8) :
    Sys2Proof.Laws.FixedBits.Statement (.invalidCc11 off8) := Sys2Proof.Laws.holds_branch _ _

theorem Sys2Proof.Laws.FixedBits.invalidCc12 (off8 : BitVec 8) :
    Sys2Proof.Laws.FixedBits.Statement (.invalidCc12 off8) := Sys2Proof.Laws.holds_branch _ _

theorem Sys2Proof.Laws.FixedBits.invalidCc13 (off8 : BitVec 8) :
    Sys2Proof.Laws.FixedBits.Statement (.invalidCc13 off8) := Sys2Proof.Laws.holds_branch _ _

theorem Sys2Proof.Laws.FixedBits.invalidCc14 (off8 : BitVec 8) :
    Sys2Proof.Laws.FixedBits.Statement (.invalidCc14 off8) := Sys2Proof.Laws.holds_branch _ _

theorem Sys2Proof.Laws.FixedBits.invalidCc15 (off8 : BitVec 8) :
    Sys2Proof.Laws.FixedBits.Statement (.invalidCc15 off8) := Sys2Proof.Laws.holds_branch _ _

theorem Sys2Proof.Laws.FixedBits.invalidSub1D (top : BitVec 4) :
    Sys2Proof.Laws.FixedBits.Statement (.invalidSub1D top) := Sys2Proof.Laws.holds_packR1 _ _

theorem Sys2Proof.Laws.FixedBits.invalidSub1E (top : BitVec 4) :
    Sys2Proof.Laws.FixedBits.Statement (.invalidSub1E top) := Sys2Proof.Laws.holds_packR1 _ _

theorem Sys2Proof.Laws.FixedBits.invalidSub1F (top : BitVec 4) :
    Sys2Proof.Laws.FixedBits.Statement (.invalidSub1F top) := Sys2Proof.Laws.holds_packR1 _ _
end

