-- ==== Sys2Proof/Laws/Step.lean ====
section
/-! SUPPORT. What a step that answers a next state has done: the one inversion lemma of `step`, and that of the fetch. -/

namespace Sys2Proof.Machine

/-- A word is fetched: `pc` is even, neither byte is stale, and both can be read (R27, R57, R65). -/
theorem fetchWord_ok {s : State} {w : Word} :
    fetchWord s = .ok w ↔ misaligned s.pc = false ∧ s.fetchIsStale = false ∧ memRead16 s s.pc = .ok w := by
  unfold fetchWord
  cases misaligned s.pc <;> cases s.fetchIsStale <;> simp

/-- A step enters an accepted interrupt, or fetches a word and executes the instruction it is (R222). -/
theorem step_next {s t : State} :
    step s = .next t ↔
      (∃ n, s.acceptedIrq = some n ∧ takeInterrupt n s.passBoundary = .next t) ∨
        (s.acceptedIrq = none ∧ ∃ w, fetchWord s = .ok w ∧ exec (decodeWord s.cfg w) s.passBoundary = .next t) := by
  unfold step
  cases s.acceptedIrq <;> cases fetchWord s <;> simp

end Sys2Proof.Machine
end

