-- ==== Sys2Proof/Tests/Slice0.lean ====
section
/-! SUPPORT. Tests of the definitions. Every expected word and result is from the spec: spec/95_test_vectors.md, or the
encoding tables of spec/30_encoding.md written out by hand. After them, for each obligation with hypotheses, a witness
that meets them all, at the boundary values of its clauses. -/

set_option Elab.async false

namespace Sys2Proof.Tests

open Sys2Proof.Machine Sys2Proof.Claims

/-! ### Well-formedness: each range of R100 refuses what lies just outside it -/

theorem test_wf_signed8 :
    Instr.wf (.ldim (-128) .sr) = true ∧ Instr.wf (.ldim 127 .pc) = true ∧ Instr.wf (.ldim 128 (.gpr 0)) = false ∧
      Instr.wf (.ldim (-129) (.gpr 0)) = false := by decide
theorem test_wf_unsigned8 :
    Instr.wf (.ldimh 0 .sr) = true ∧ Instr.wf (.ldimh 255 .sr) = true ∧ Instr.wf (.ldimh 256 .sr) = false := by decide
theorem test_wf_branches :
    ([.bra 128, .brf (-129), .beq 128, .bne (-129), .bmi 128, .bpl (-129), .bcs 128, .bcc (-129), .bgr 128,
      .ble (-129)] : List Instr).all (fun i => !i.wf) = true ∧ Instr.wf (.ble 127) = true ∧
      Instr.wf (.bra (-128)) = true := by decide
theorem test_wf_signed4NoZero :
    ([.addi 0 .sr, .andi 0 .sr, .ori 0 .sr, .addi 9 .sr, .andi 9 .sr, .ori 9 .sr, .addi (-9) .sr, .andi (-9) .sr,
      .ori (-9) .sr] : List Instr).all (fun i => !i.wf) = true ∧
      ([.addi 8 .sr, .andi (-8) .sr, .ori 1 .sr, .addi (-1) .sr] : List Instr).all Instr.wf = true := by decide
theorem test_wf_signed4 :
    Instr.wf (.cmpi (-8) .sr) = true ∧ Instr.wf (.cmpi 0 .sr) = true ∧ Instr.wf (.cmpi 7 .sr) = true ∧
      Instr.wf (.cmpi 8 .sr) = false ∧ Instr.wf (.cmpi (-9) .sr) = false := by decide
theorem test_wf_shiftImm :
    ([.lsli 0 .sr, .lsri 0 .sr, .lsli 9 .sr, .lsri 9 .sr] : List Instr).all (fun i => !i.wf) = true ∧
      ([.lsli 1 .sr, .lsri 8 .sr] : List Instr).all Instr.wf = true := by decide
theorem test_wf_unsigned4 :
    ([.ini 16 .sr, .outi 16 .sr, .trapi 16] : List Instr).all (fun i => !i.wf) = true ∧
      ([.ini 0 .sr, .outi 15 .sr, .trapi 15] : List Instr).all Instr.wf = true := by decide

/-! ### Decoding: a word of every constructor, written out from spec/30_encoding.md R81 to R93 -/

/-- The instruction a word is under the spec's own tables. -/
def decoded (w : Word) : Instr := decodeWord defaultConfig w

theorem test_decode_load_immediate :
    decoded 0x17F0 = .ldim 127 (.gpr 1) ∧ decoded 0xF800 = .ldim (-128) .sr ∧
      decoded 0xEFE1 = .ldimh 0xFE .pc := by decide
theorem test_decode_load_store :
    decoded 0xDE02 = .ld8 .pc (.gpr 0) (.gpr 13) ∧ decoded 0x3123 = .ld16 (.gpr 1) (.gpr 2) (.gpr 3) ∧
      decoded 0xFD14 = .str8 (.gpr 13) (.gpr 1) .sr ∧ decoded 0xEE25 = .str16 .pc (.gpr 2) .pc := by decide
theorem test_decode_alu :
    decoded 0x3126 = .add (.gpr 1) (.gpr 2) (.gpr 3) ∧ decoded 0x3127 = .adc (.gpr 1) (.gpr 2) (.gpr 3) ∧
      decoded 0x3128 = .and (.gpr 1) (.gpr 2) (.gpr 3) ∧ decoded 0x3129 = .or (.gpr 1) (.gpr 2) (.gpr 3) ∧
      decoded 0x312A = .xor (.gpr 1) (.gpr 2) (.gpr 3) ∧ decoded 0x312B = .lsl (.gpr 1) (.gpr 2) (.gpr 3) ∧
      decoded 0x312C = .lsr (.gpr 1) (.gpr 2) (.gpr 3) ∧ decoded 0xDEFD = .asr .pc .sr (.gpr 13) := by decide
theorem test_decode_branch :
    decoded 0x07FE = .bra 127 ∧ decoded 0x180E = .brf (-128) ∧ decoded 0x205E = .beq 5 ∧
      decoded 0x3FCE = .bne (-4) ∧ decoded 0x4FFE = .bmi (-1) ∧ decoded 0x501E = .bpl 1 ∧
      decoded 0x610E = .bcs 16 ∧ decoded 0x700E = .bcc 0 ∧ decoded 0x8F0E = .bgr (-16) ∧
      decoded 0x903E = .ble 3 := by decide
theorem test_decode_two_operand :
    decoded 0xED0F = .mov (.gpr 13) .pc ∧ decoded 0x211F = .neg (.gpr 1) (.gpr 2) ∧
      decoded 0x212F = .not (.gpr 1) (.gpr 2) ∧ decoded 0x213F = .cmp (.gpr 1) (.gpr 2) ∧
      decoded 0xD14F = .call (.gpr 1) (.gpr 13) ∧ decoded 0x1F5F = .swap .sr (.gpr 1) := by decide
theorem test_decode_io :
    decoded 0x216F = .inp (.gpr 1) (.gpr 2) ∧ decoded 0x217F = .out (.gpr 1) (.gpr 2) ∧
      decoded 0x2F8F = .ini 15 (.gpr 2) ∧ decoded 0xF29F = .outi 2 .sr := by decide
theorem test_decode_alu_immediate :
    decoded 0x10AF = .addi 8 (.gpr 1) ∧ decoded 0x18BF = .andi (-8) (.gpr 1) ∧ decoded 0x17CF = .ori 7 (.gpr 1) ∧
      decoded 0x10DF = .lsli 8 (.gpr 1) ∧ decoded 0x17DF = .lsli 7 (.gpr 1) ∧ decoded 0x18DF = .lsri 8 (.gpr 1) ∧
      decoded 0x19DF = .lsri 1 (.gpr 1) ∧ decoded 0x18EF = .cmpi (-8) (.gpr 1) ∧
      decoded 0x10EF = .cmpi 0 (.gpr 1) := by decide
theorem test_decode_exception :
    decoded 0x10FF = .reti (.gpr 1) ∧ decoded 0xE1FF = .trap .pc ∧ decoded 0xF2FF = .trapi 15 ∧
      decoded 0x13FF = .getepc (.gpr 1) ∧ decoded 0x14FF = .setepc (.gpr 1) ∧ decoded 0x15FF = .getesr (.gpr 1) ∧
      decoded 0x16FF = .setesr (.gpr 1) ∧ decoded 0x17FF = .geteur (.gpr 1) ∧ decoded 0x18FF = .seteur (.gpr 1) ∧
      decoded 0x19FF = .getenum (.gpr 1) ∧ decoded 0x1AFF = .setenum (.gpr 1) ∧
      decoded 0x1BFF = .getvbr (.gpr 1) ∧ decoded 0xFCFF = .setvbr .sr := by decide
theorem test_decode_invalid :
    decoded 0xA05E = .invalidCc10 5 ∧ decoded 0xB05E = .invalidCc11 5 ∧ decoded 0xC05E = .invalidCc12 5 ∧
      decoded 0xD05E = .invalidCc13 5 ∧ decoded 0xE05E = .invalidCc14 5 ∧ decoded 0xF00E = .invalidCc15 0 ∧
      decoded 0x1DFF = .invalidSub1D 1 ∧ decoded 0x0EFF = .invalidSub1E 0 ∧
      decoded 0xFFFF = .invalidSub1F 15 := by decide
theorem test_encode :
    encode defaultConfig (.add (.gpr 1) (.gpr 2) (.gpr 3)) = 0x3126 ∧ encode defaultConfig (.bne (-4)) = 0x3FCE ∧ encode defaultConfig (.ldim (-128) .sr) = 0xF800 ∧
      encode defaultConfig (.addi 8 (.gpr 1)) = 0x10AF ∧ encode defaultConfig (.lsri 8 (.gpr 1)) = 0x18DF ∧ encode defaultConfig (.setvbr .sr) = 0xFCFF := by decide
theorem test_decode_table_word : decodeTableWord 16 0x3126 = some (.add (.gpr 1) (.gpr 2) (.gpr 3)) := by decide
theorem test_decode_little :
    (decode { defaultConfig with byteOrder := .little } [0x23, 0x31, 0x77]).toOption =
      some (.ld16 (.gpr 1) (.gpr 2) (.gpr 3), [0x77]) ∧ (decode defaultConfig [0x31]).toOption = none := by decide

/-- Other tables, for R87 and R88 leave the numbers open: `ENC2` and `ENC1` upside down, bit 11 the other way round. -/
def otherTables : Config :=
  { defaultConfig with
    enc2 := #v[.escape, .cmpi, .shift, .ori, .andi, .addi, .outi, .ini, .out, .inp]
    lsriBit := false
    enc1 := #v[.unassignedF, .unassignedE, .unassignedD, .setvbr, .getvbr, .setenum, .getenum, .seteur, .geteur, .setesr,
      .getesr, .setepc, .getepc, .trapi, .trap, .reti] }
theorem test_other_tables :
    otherTables.encodingsAssigned = true ∧ decodeWord otherTables 0x21FF = .inp (.gpr 1) (.gpr 2) ∧
      decodeWord otherTables 0x125F = .swap (.gpr 2) (.gpr 1) ∧ decodeWord otherTables 0x1F6F = .reti (.gpr 1) ∧
      decodeWord otherTables 0x106F = .invalidSub1F 1 ∧ decodeWord otherTables 0x128F = .lsri 2 (.gpr 1) ∧
      decodeWord otherTables 0x1A8F = .lsli 2 (.gpr 1) ∧ encode otherTables (.lsri 8 (.gpr 1)) = 0x108F ∧
      encode otherTables (.trapi 15) = 0xFD6F ∧ encode otherTables (.addi (-1) .sr) = 0xFFBF := by decide
theorem test_a_table_must_give_every_row_a_code :
    ({ defaultConfig with enc2 := defaultEnc2.set 0 .out }).encodingsAssigned = false ∧
      ({ defaultConfig with enc1 := defaultEnc1.set 15 .reti }).encodingsAssigned = false := by decide

/-! ### One step, from the vectors of spec/95_test_vectors.md section 2 -/

/-- The state after a step that has one. -/
def after (s : State) : Option State :=
  match step s with
  | .next t => some t
  | _ => none

/-- Why a step stops, where it does. -/
def faultOf (s : State) : Option Fault :=
  match step s with
  | .fault f => some f
  | _ => none

/-- The set-up of section 2: the word at 0x0100, `pc` there, SR and the listed registers given. -/
def start (w sr : Word) (regs : List (Fin 14 × Word)) : State :=
  regs.foldl (fun s r => s.setGpr r.1 r.2) ({ State.reset with pc := 0x0100, sr := sr }.placeWord w)

/-- `s` with a value of its own in each exception register. -/
def marked (s : State) : State :=
  { s with epc := 0x1111, esr := 0x2222, eur := 0x3333, enum := 0x4444, vbr := 0x0200 }

/-- `pc`, SR and the listed registers after one step. -/
def regsAfter (s : State) (ks : List (Fin 14)) : Option (Word × Word × List Word) :=
  (after s).map fun t => (t.pc, t.sr, ks.map t.gpr)

/-- `pc`, SR, the listed registers and EPC, ESR, EUR, ENUM, VBR after one step. -/
def exceptionAfter (s : State) (ks : List (Fin 14)) : Option (Word × Word × List Word × List Word) :=
  (after s).map fun t => (t.pc, t.sr, ks.map t.gpr, [t.epc, t.esr, t.eur, t.enum, t.vbr])

/-- `pc`, SR and the listed bytes of memory after one step. -/
def bytesAfter (s : State) (addresses : List Nat) : Option (Word × Word × List (Option Byte)) :=
  (after s).map fun t => (t.pc, t.sr, addresses.map (Memory.read t.mem))

/-- `pc`, SR, the listed registers and what the environment has been told after one step. -/
def eventsAfter (s : State) (ks : List (Fin 14)) : Option (Word × Word × List Word × List Event) :=
  (after s).map fun t => (t.pc, t.sr, ks.map t.gpr, t.events)

theorem test_ldim_sign_extends : regsAfter (start 0x1800 0x0000 []) [1] = some (0x0102, 0x0000, [0xFF80]) := by decide
theorem test_ldim_loads_sr : regsAfter (start 0xF1F0 0x0000 []) [] = some (0x0102, 0x001F, []) := by decide
theorem test_ldimh_keeps_the_low_byte :
    regsAfter (start 0x1121 0x0000 [(1, 0xFF34)]) [1] =
      some (0x0102, 0x0000, [0x1234]) := by decide
theorem test_ldimh_jumps_where_rD_is_r14 :
    regsAfter (start 0xE021 0x0000 []) [] =
      some (0x0204, 0x0000, []) := by decide
theorem test_ld8_zero_extends :
    regsAfter ((start 0x3122 0x0000 [(1, 0x2000), (2, 0x0002)]).load [(0x2002, 0x80)]) [1, 2, 3] =
      some (0x0102, 0x0000, [0x2000, 0x0002, 0x0080]) := by decide
theorem test_ld8_wraps :
    regsAfter ((start 0x3122 0x0000 [(1, 0xFFFF), (2, 0x0001)]).load [(0x0000, 0x55)]) [1, 2, 3] =
      some (0x0102, 0x0000, [0xFFFF, 0x0001, 0x0055]) := by decide
theorem test_ld16_reads_its_operands_first :
    regsAfter ((start 0x1113 0x0000 [(1, 0x1000)]).load [(0x2000, 0x12), (0x2001, 0x34)]) [1] =
      some (0x0102, 0x0000, [0x1234]) := by decide
theorem test_ld16_is_pc_relative :
    regsAfter ((start 0x3E23 0x0000 [(2, 0x0004)]).load [(0x0108, 0xBE), (0x0109, 0xEF)]) [2, 3] =
      some (0x0102, 0x0000, [0x0004, 0xBEEF]) := by decide
theorem test_str8_stores_the_low_byte :
    bytesAfter (start 0x3124 0x0000 [(1, 0xD000), (2, 0x0005), (3, 0xABCD)]) [0xD005] =
      some (0x0102, 0x0000, [some 0xCD]) := by decide
theorem test_str8_wraps :
    bytesAfter (start 0x3124 0x0000 [(1, 0xFFFF), (2, 0xD001), (3, 0x0180)]) [0xD000] =
      some (0x0102, 0x0000, [some 0x80]) := by decide
theorem test_str16_is_big_endian :
    bytesAfter (start 0x3125 0x0000 [(1, 0xD000), (2, 0x0004), (3, 0xABCD)]) [0xD004, 0xD005] =
      some (0x0102, 0x0000, [some 0xAB, some 0xCD]) := by decide
theorem test_str16_reads_r14 :
    bytesAfter (start 0xEE25 0x0000 [(2, 0xCF00)]) [0xD004, 0xD005] =
      some (0x0102, 0x0000, [some 0x01, some 0x04]) := by decide
theorem test_add_carries :
    regsAfter (start 0x3126 0x0000 [(1, 0xFFFF), (2, 0x0001)]) [1, 2, 3] =
      some (0x0102, 0x000C, [0xFFFF, 0x0001, 0x0000]) := by decide
theorem test_add_to_sr_sets_flags_last :
    regsAfter (start 0xF126 0x0000 [(1, 0x0001), (2, 0x0002)]) [1, 2] =
      some (0x0102, 0x0003, [0x0001, 0x0002]) := by decide
theorem test_adc_takes_the_carry :
    regsAfter (start 0x3127 0x0008 [(1, 0xFFFF), (2, 0x0000)]) [1, 2, 3] =
      some (0x0102, 0x000C, [0xFFFF, 0x0000, 0x0000]) := by decide
theorem test_adc_of_all_ones :
    regsAfter (start 0x3127 0x0008 [(1, 0xFFFF), (2, 0xFFFF)]) [1, 2, 3] =
      some (0x0102, 0x0018, [0xFFFF, 0xFFFF, 0xFFFF]) := by decide
theorem test_and_keeps_carry :
    regsAfter (start 0x3128 0x0008 [(1, 0xF0F0), (2, 0xFF00)]) [1, 2, 3] =
      some (0x0102, 0x0018, [0xF0F0, 0xFF00, 0xF000]) := by decide
theorem test_and_of_disjoint :
    regsAfter (start 0x3128 0x0008 [(1, 0x00FF), (2, 0xFF00)]) [1, 2, 3] =
      some (0x0102, 0x000C, [0x00FF, 0xFF00, 0x0000]) := by decide
theorem test_or_keeps_carry :
    regsAfter (start 0x3129 0x000C [(1, 0x8000), (2, 0x0001)]) [1, 2, 3] =
      some (0x0102, 0x0018, [0x8000, 0x0001, 0x8001]) := by decide
theorem test_xor_clears :
    regsAfter (start 0x111A 0x0018 [(1, 0x1234)]) [1] =
      some (0x0102, 0x000C, [0x0000]) := by decide
theorem test_lsl_shifts_out_bit_15 :
    regsAfter (start 0x312B 0x0008 [(1, 0x8001), (2, 0x0001)]) [1, 2, 3] =
      some (0x0102, 0x0008, [0x8001, 0x0001, 0x0002]) := by decide
theorem test_lsl_by_16 :
    regsAfter (start 0x312B 0x0008 [(1, 0x8001), (2, 0x0010)]) [1, 2, 3] =
      some (0x0102, 0x000C, [0x8001, 0x0010, 0x0000]) := by decide
theorem test_lsr_shifts_out_bit_0 :
    regsAfter (start 0x312C 0x0008 [(1, 0x8001), (2, 0x0001)]) [1, 2, 3] =
      some (0x0102, 0x0008, [0x8001, 0x0001, 0x4000]) := by decide
theorem test_lsr_by_0_clears_carry :
    regsAfter (start 0x312C 0x0008 [(1, 0x8001), (2, 0x0000)]) [1, 2, 3] =
      some (0x0102, 0x0010, [0x8001, 0x0000, 0x8001]) := by decide
theorem test_asr_rounds_down :
    regsAfter (start 0x312D 0x0000 [(1, 0xFFF9), (2, 0x0001)]) [1, 2, 3] =
      some (0x0102, 0x0018, [0xFFF9, 0x0001, 0xFFFC]) := by decide
theorem test_asr_by_17 :
    regsAfter (start 0x312D 0x0008 [(1, 0x8001), (2, 0x0011)]) [1, 2, 3] =
      some (0x0102, 0x0018, [0x8001, 0x0011, 0xFFFF]) := by decide
theorem test_bra_goes_farthest_back : regsAfter (start 0x080E 0x0000 []) [] = some (0x0004, 0x0000, []) := by decide
theorem test_brf_goes_on : regsAfter (start 0x105E 0x0004 []) [] = some (0x0102, 0x0004, []) := by decide
theorem test_beq_taken : regsAfter (start 0x205E 0x0004 []) [] = some (0x010E, 0x0004, []) := by decide
theorem test_beq_not_taken : regsAfter (start 0x205E 0x0008 []) [] = some (0x0102, 0x0008, []) := by decide
theorem test_bne_taken : regsAfter (start 0x305E 0x0008 []) [] = some (0x010E, 0x0008, []) := by decide
theorem test_bne_not_taken : regsAfter (start 0x305E 0x0004 []) [] = some (0x0102, 0x0004, []) := by decide
theorem test_bmi_taken : regsAfter (start 0x405E 0x0010 []) [] = some (0x010E, 0x0010, []) := by decide
theorem test_bmi_not_taken : regsAfter (start 0x405E 0x000C []) [] = some (0x0102, 0x000C, []) := by decide
theorem test_bpl_taken : regsAfter (start 0x505E 0x000C []) [] = some (0x010E, 0x000C, []) := by decide
theorem test_bpl_not_taken : regsAfter (start 0x505E 0x0010 []) [] = some (0x0102, 0x0010, []) := by decide
theorem test_bcs_taken : regsAfter (start 0x605E 0x0008 []) [] = some (0x010E, 0x0008, []) := by decide
theorem test_bcs_not_taken : regsAfter (start 0x605E 0x0004 []) [] = some (0x0102, 0x0004, []) := by decide
theorem test_bcc_taken : regsAfter (start 0x705E 0x0004 []) [] = some (0x010E, 0x0004, []) := by decide
theorem test_bcc_not_taken : regsAfter (start 0x705E 0x0008 []) [] = some (0x0102, 0x0008, []) := by decide
theorem test_bgr_taken : regsAfter (start 0x805E 0x0010 []) [] = some (0x010E, 0x0010, []) := by decide
theorem test_bgr_not_taken_on_zero : regsAfter (start 0x805E 0x0004 []) [] = some (0x0102, 0x0004, []) := by decide
theorem test_ble_taken_on_zero : regsAfter (start 0x905E 0x0004 []) [] = some (0x010E, 0x0004, []) := by decide
theorem test_ble_not_taken : regsAfter (start 0x903E 0x0013 []) [] = some (0x0102, 0x0013, []) := by decide
theorem test_mov_to_sr :
    regsAfter (start 0xF10F 0x001C [(1, 0x0003)]) [1] =
      some (0x0102, 0x0003, [0x0003]) := by decide
theorem test_mov_from_r14 : regsAfter (start 0x1E0F 0x0000 []) [1] = some (0x0102, 0x0000, [0x0104]) := by decide
theorem test_neg_of_0_borrows_nothing :
    regsAfter (start 0x211F 0x0000 [(1, 0x0000)]) [1, 2] =
      some (0x0102, 0x0004, [0x0000, 0x0000]) := by decide
theorem test_neg_of_the_least :
    regsAfter (start 0x211F 0x0000 [(1, 0x8000)]) [1, 2] =
      some (0x0102, 0x0018, [0x8000, 0x8000]) := by decide
theorem test_not_keeps_carry :
    regsAfter (start 0x212F 0x0008 [(1, 0x0000)]) [1, 2] =
      some (0x0102, 0x0018, [0x0000, 0xFFFF]) := by decide
theorem test_not_of_a_byte :
    regsAfter (start 0x212F 0x0000 [(1, 0x00FF)]) [1, 2] =
      some (0x0102, 0x0010, [0x00FF, 0xFF00]) := by decide
theorem test_cmp_borrows_below :
    regsAfter (start 0x213F 0x0000 [(1, 0x0005), (2, 0x0003)]) [1, 2] =
      some (0x0102, 0x0018, [0x0005, 0x0003]) := by decide
theorem test_cmp_of_itself :
    regsAfter (start 0x113F 0x001B [(1, 0x1234)]) [1] =
      some (0x0102, 0x0007, [0x1234]) := by decide
theorem test_call_reads_the_target_first :
    regsAfter (start 0x114F 0x0000 [(1, 0x0400)]) [1] =
      some (0x0400, 0x0000, [0x0102]) := by decide
theorem test_call_linking_r14_jumps :
    regsAfter (start 0xE14F 0x0000 [(1, 0x0400)]) [1] =
      some (0x0400, 0x0000, [0x0400]) := by decide
theorem test_swap_of_sr :
    regsAfter (start 0x1F5F 0x0010 [(1, 0x0003)]) [1] =
      some (0x0102, 0x0003, [0x0010]) := by decide
theorem test_swap_of_r14 :
    regsAfter (start 0xE15F 0x0000 [(1, 0x0400)]) [1] =
      some (0x0400, 0x0000, [0x0104]) := by decide
theorem test_in_reads_a_16_bit_port :
    eventsAfter { start 0x216F 0x001C [(1, 0x1234)] with ioIn := [0x00FF] } [1, 2] =
      some (0x0102, 0x001C, [0x1234, 0x00FF], [.ioRead 0x1234 0x00FF]) := by decide
theorem test_in_over_its_port :
    eventsAfter { start 0x116F 0x0000 [(1, 0x0003)] with ioIn := [0xBEEF] } [1] =
      some (0x0102, 0x0000, [0xBEEF], [.ioRead 0x0003 0xBEEF]) := by decide
theorem test_out_records :
    eventsAfter (start 0x217F 0x0000 [(1, 0x1234), (2, 0xCAFE)]) [1, 2] =
      some (0x0102, 0x0000, [0x1234, 0xCAFE], [.ioWrite 0x1234 0xCAFE]) := by decide
theorem test_out_of_its_port :
    eventsAfter (start 0x117F 0x0000 [(1, 0x0007)]) [1] =
      some (0x0102, 0x0000, [0x0007], [.ioWrite 0x0007 0x0007]) := by decide
theorem test_ini_jumps :
    eventsAfter { start 0xE08F 0x0000 [] with ioIn := [0x0300] } [] =
      some (0x0300, 0x0000, [], [.ioRead 0x0000 0x0300]) := by decide
theorem test_ini_port_15 :
    eventsAfter { start 0x2F8F 0x0000 [] with ioIn := [0xFFFF] } [2] =
      some (0x0102, 0x0000, [0xFFFF], [.ioRead 0x000F 0xFFFF]) := by decide
theorem test_outi_port_15 :
    eventsAfter (start 0x2F9F 0x0000 [(2, 0x0041)]) [2] =
      some (0x0102, 0x0000, [0x0041], [.ioWrite 0x000F 0x0041]) := by decide
theorem test_outi_of_sr :
    eventsAfter (start 0xF29F 0x0013 []) [] =
      some (0x0102, 0x0013, [], [.ioWrite 0x0002 0x0013]) := by decide
theorem test_addi_minus_1_has_no_carry :
    regsAfter (start 0x1FAF 0x0000 [(1, 0x0000)]) [1] =
      some (0x0102, 0x0010, [0xFFFF]) := by decide
theorem test_addi_field_0_is_8 :
    regsAfter (start 0x10AF 0x0000 [(1, 0xFFF8)]) [1] =
      some (0x0102, 0x000C, [0x0000]) := by decide
theorem test_andi_extends_the_sign :
    regsAfter (start 0x18BF 0x0008 [(1, 0xFFFF)]) [1] =
      some (0x0102, 0x0018, [0xFFF8]) := by decide
theorem test_andi_clears_the_enables : regsAfter (start 0xFCBF 0x001F []) [] = some (0x0102, 0x0008, []) := by decide
theorem test_ori_extends_the_sign :
    regsAfter (start 0x18CF 0x0008 [(1, 0x0000)]) [1] =
      some (0x0102, 0x0018, [0xFFF8]) := by decide
theorem test_ori_sets_the_enables : regsAfter (start 0xF3CF 0x0018 []) [] = some (0x0102, 0x000B, []) := by decide
theorem test_lsli_field_0_is_8 :
    regsAfter (start 0x10DF 0x0000 [(1, 0x01FF)]) [1] =
      some (0x0102, 0x0018, [0xFF00]) := by decide
theorem test_lsli_by_4 :
    regsAfter (start 0x14DF 0x0000 [(1, 0x0FFF)]) [1] =
      some (0x0102, 0x0010, [0xFFF0]) := by decide
theorem test_lsri_field_8_is_8 :
    regsAfter (start 0x18DF 0x0000 [(1, 0xFF80)]) [1] =
      some (0x0102, 0x0008, [0x00FF]) := by decide
theorem test_lsri_by_7 :
    regsAfter (start 0x1FDF 0x0000 [(1, 0x8000)]) [1] =
      some (0x0102, 0x0000, [0x0100]) := by decide
theorem test_cmpi_extends_the_sign :
    regsAfter (start 0x1FEF 0x0000 [(1, 0x0000)]) [1] =
      some (0x0102, 0x0008, [0x0000]) := by decide
theorem test_cmpi_of_0 :
    regsAfter (start 0x10EF 0x0000 [(1, 0x0000)]) [1] =
      some (0x0102, 0x0004, [0x0000]) := by decide
theorem test_reti_restores :
    exceptionAfter { start 0x10FF 0x0008 [] with epc := 0x0300, esr := 0x0017, eur := 0xBEEF } [1] =
      some (0x0300, 0x0017, [0xBEEF], [0x0300, 0x0017, 0xBEEF, 0x0000, 0x0000]) := by decide
theorem test_reti_of_r14_goes_to_epc :
    exceptionAfter { start 0xE0FF 0x0008 [] with epc := 0x0300, esr := 0x0017, eur := 0xBEEF } [] =
      some (0x0300, 0x0017, [], [0x0300, 0x0017, 0xBEEF, 0x0000, 0x0000]) := by decide
theorem test_trap_takes_16_bits :
    exceptionAfter { (start 0x11FF 0x0003 [(1, 0x8003)]).load [(0x0206, 0x04), (0x0207, 0x30)] with vbr := 0x0200 } [1] =
      some (0x0430, 0x0000, [0x8003], [0x0102, 0x0003, 0x0000, 0x8003, 0x0200]) := by decide
theorem test_trap_of_r14 :
    exceptionAfter { (start 0xE1FF 0x0000 []).load [(0x0408, 0x06), (0x0409, 0x00)] with vbr := 0x0200 } [] =
      some (0x0600, 0x0000, [], [0x0102, 0x0000, 0x0000, 0x0104, 0x0200]) := by decide
theorem test_trapi_0_is_interrupt_0s_number :
    exceptionAfter { (start 0x02FF 0x001F []).load [(0x0200, 0x04), (0x0201, 0x00)] with vbr := 0x0200 } [] =
      some (0x0400, 0x001C, [], [0x0102, 0x001F, 0x0000, 0x0000, 0x0200]) := by decide
theorem test_trapi_15 :
    exceptionAfter { (start 0xF2FF 0x0002 []).load [(0x021E, 0x04), (0x021F, 0xF0)] with vbr := 0x0200 } [] =
      some (0x04F0, 0x0000, [], [0x0102, 0x0002, 0x0000, 0x000F, 0x0200]) := by decide
theorem test_getepc :
    exceptionAfter (marked (start 0x13FF 0x001C [])) [1] =
      some (0x0102, 0x001C, [0x1111], [0x1111, 0x2222, 0x3333, 0x4444, 0x0200]) := by decide
theorem test_getepc_of_r14_jumps :
    exceptionAfter (marked (start 0xE3FF 0x0000 [])) [] =
      some (0x1111, 0x0000, [], [0x1111, 0x2222, 0x3333, 0x4444, 0x0200]) := by decide
theorem test_setepc :
    exceptionAfter (marked (start 0x14FF 0x001C [(1, 0xABCD)])) [1] =
      some (0x0102, 0x001C, [0xABCD], [0xABCD, 0x2222, 0x3333, 0x4444, 0x0200]) := by decide
theorem test_setepc_of_r14 :
    exceptionAfter (marked (start 0xE4FF 0x0000 [])) [] =
      some (0x0102, 0x0000, [], [0x0104, 0x2222, 0x3333, 0x4444, 0x0200]) := by decide
theorem test_getesr :
    exceptionAfter (marked (start 0x15FF 0x001C [])) [1] =
      some (0x0102, 0x001C, [0x2222], [0x1111, 0x2222, 0x3333, 0x4444, 0x0200]) := by decide
theorem test_getesr_of_sr :
    exceptionAfter (marked (start 0xF5FF 0x0000 [])) [] =
      some (0x0102, 0x2222, [], [0x1111, 0x2222, 0x3333, 0x4444, 0x0200]) := by decide
theorem test_setesr :
    exceptionAfter (marked (start 0x16FF 0x001C [(1, 0xABCD)])) [1] =
      some (0x0102, 0x001C, [0xABCD], [0x1111, 0xABCD, 0x3333, 0x4444, 0x0200]) := by decide
theorem test_setesr_of_sr :
    exceptionAfter (marked (start 0xF6FF 0x0013 [])) [] =
      some (0x0102, 0x0013, [], [0x1111, 0x0013, 0x3333, 0x4444, 0x0200]) := by decide
theorem test_geteur :
    exceptionAfter (marked (start 0x17FF 0x001C [])) [1] =
      some (0x0102, 0x001C, [0x3333], [0x1111, 0x2222, 0x3333, 0x4444, 0x0200]) := by decide
theorem test_seteur :
    exceptionAfter (marked (start 0x18FF 0x001C [(1, 0xABCD)])) [1] =
      some (0x0102, 0x001C, [0xABCD], [0x1111, 0x2222, 0xABCD, 0x4444, 0x0200]) := by decide
theorem test_getenum :
    exceptionAfter (marked (start 0x19FF 0x001C [])) [1] =
      some (0x0102, 0x001C, [0x4444], [0x1111, 0x2222, 0x3333, 0x4444, 0x0200]) := by decide
theorem test_setenum :
    exceptionAfter (marked (start 0x1AFF 0x001C [(1, 0xABCD)])) [1] =
      some (0x0102, 0x001C, [0xABCD], [0x1111, 0x2222, 0x3333, 0xABCD, 0x0200]) := by decide
theorem test_getvbr :
    exceptionAfter (marked (start 0x1BFF 0x001C [])) [1] =
      some (0x0102, 0x001C, [0x0200], [0x1111, 0x2222, 0x3333, 0x4444, 0x0200]) := by decide
theorem test_setvbr :
    exceptionAfter (marked (start 0x1CFF 0x001C [(1, 0xABCD)])) [1] =
      some (0x0102, 0x001C, [0xABCD], [0x1111, 0x2222, 0x3333, 0x4444, 0xABCD]) := by decide
theorem test_invalidCc10 :
    exceptionAfter { (start 0xA05E 0x001F []).load [(0x0204, 0x04), (0x0205, 0x20)] with vbr := 0x0200 } [] =
      some (0x0420, 0x001C, [], [0x0102, 0x001F, 0x0000, 0x0002, 0x0200]) := by decide
theorem test_invalidCc15 :
    exceptionAfter { (start 0xF00E 0x0002 []).load [(0x0204, 0x04), (0x0205, 0x20)] with vbr := 0x0200 } [] =
      some (0x0420, 0x0000, [], [0x0102, 0x0002, 0x0000, 0x0002, 0x0200]) := by decide
theorem test_invalidSub1D :
    exceptionAfter { (start 0x1DFF 0x0013 []).load [(0x0204, 0x04), (0x0205, 0x20)] with vbr := 0x0200 } [] =
      some (0x0420, 0x0010, [], [0x0102, 0x0013, 0x0000, 0x0002, 0x0200]) := by decide
theorem test_invalidSub1E :
    exceptionAfter { (start 0x0EFF 0x0000 []).load [(0x0204, 0x04), (0x0205, 0x20)] with vbr := 0x0200 } [] =
      some (0x0420, 0x0000, [], [0x0102, 0x0000, 0x0000, 0x0002, 0x0200]) := by decide
theorem test_invalidSub1F :
    exceptionAfter { (start 0xFFFF 0x0004 []).load [(0x0204, 0x04), (0x0205, 0x20)] with vbr := 0x0200 } [] =
      some (0x0420, 0x0004, [], [0x0102, 0x0004, 0x0000, 0x0002, 0x0200]) := by decide
theorem test_invalidCc11_to_14 :
    ([0xB05E, 0xC05E, 0xD05E, 0xE05E] : List Word).all (fun w =>
      exceptionAfter ((start w 0x001F []).load [(0x0004, 0x04), (0x0005, 0x20)]) [] ==
        some (0x0420, 0x001C, [], [0x0102, 0x001F, 0, 2, 0])) = true := by decide

/-! ### Model faults (R27, R55, R56, R51, R65) -/

theorem test_ld16_at_an_odd_address : faultOf (start 0x3123 0 [(1, 0x2000), (2, 1)]) = some (.misalignedRead 0x2001) := by decide
theorem test_str16_at_an_odd_address : faultOf (start 0x3125 0 [(1, 0xD000), (2, 3)]) = some (.misalignedWrite 0xD003) := by decide
theorem test_str8_to_rom : faultOf (start 0x3124 0 [(1, 0xBFFF)]) = some (.romWrite 0xBFFF) := by decide
theorem test_ld8_of_an_unwritten_byte : faultOf (start 0x3122 0 [(1, 0xC000)]) = some (.unwrittenByte 0xC000) := by decide
theorem test_fetch_at_an_odd_pc : faultOf { start 0x3122 0 [] with pc := 0x0101 } = some (.misalignedFetch 0x0101) := by decide
theorem test_reset_has_nothing_to_fetch : faultOf State.reset = some (.unwrittenByte 0x0000) := by decide

/-- A store into the window of the instructions fetched ahead (D29): `str8` at 0xC000 to 0xC003. -/
def storesAhead : State :=
  ((({ State.reset with pc := 0xC000 }.setGpr 1 0xC003).setGpr 3 0x00AF).placeWord 0x3124).load
    [(0xC002, 0x11), (0xC003, 0xAF)]

theorem test_stale_fetch : (after storesAhead).bind faultOf = some (.staleFetch 0xC002) := by decide

/-! ### Reset, and the instruction the host places (R42, R251) -/

theorem test_placed_word_runs_from_reset :
    regsAfter (State.reset.withFetchWord 16 0x17F0) [1] = some (0x0002, 0x0000, [0x007F]) := by decide
theorem test_placed_trap_runs_from_reset :
    exceptionAfter (State.reset.withFetchWord 16 0x01FF) [] = some (0x01FF, 0, [], [2, 0, 0, 0, 0]) := by decide

/-! ### Interrupts, from section 3 -/

/-- `add r1, r2, r3` at 0x0100 and the first two slots of table T; the request lines of the boundaries to come. -/
def atBoundary (sr : Word) (lines : List IrqLines) : State :=
  { (start 0x3126 sr []).load [(0x0200, 0x04), (0x0201, 0x00), (0x0202, 0x04), (0x0203, 0x10)] with
    vbr := 0x0200
    irqIn := lines }

theorem test_interrupt_X1 :
    exceptionAfter (atBoundary 0x0015 [⟨true, false⟩]) [] = some (0x0400, 0x0014, [], [0x0100, 0x0015, 0, 0, 0x0200]) := by
  decide
theorem test_interrupt_X2 : regsAfter (atBoundary 0x0002 [⟨true, false⟩]) [3] = some (0x0102, 0x0006, [0]) := by decide
theorem test_interrupt_X3 :
    exceptionAfter (atBoundary 0x0002 [⟨false, true⟩]) [] = some (0x0410, 0x0000, [], [0x0100, 0x0002, 0, 1, 0x0200]) := by
  decide
theorem test_interrupt_X4 :
    exceptionAfter (atBoundary 0x001B [⟨true, true⟩]) [] = some (0x0400, 0x0018, [], [0x0100, 0x001B, 0, 0, 0x0200]) := by
  decide
theorem test_interrupt_is_acknowledged :
    eventsAfter (atBoundary 0x0003 [⟨false, true⟩]) [] = some (0x0410, 0x0000, [], [.irqAck .int1]) := by decide

/-! ### Other parameter values, from section 5 -/

/-- `s` with other parameters. -/
def under (change : Config → Config) (s : State) : State := { s with cfg := change s.cfg }

theorem test_pc_ahead_2 :
    regsAfter (under (fun c => { c with pcAhead := .two }) (start 0x1E0F 0 [])) [1] = some (0x0102, 0, [0x0102]) := by decide
theorem test_pc_ahead_8 :
    regsAfter (under (fun c => { c with pcAhead := .eight }) (start 0x080E 0 [])) [] = some (0x0008, 0, []) := by decide
theorem test_little_endian_store :
    bytesAfter (under (fun c => { c with byteOrder := .little }) (start 0x2531 0 [(1, 0xD000), (2, 4), (3, 0xABCD)]))
      [0xD004, 0xD005] = some (0x0102, 0, [some 0xCD, some 0xAB]) := by decide
theorem test_ld8_sign :
    regsAfter (under (fun c => { c with ld8Extend := .sign })
      ((start 0x3122 0 [(1, 0x2000), (2, 2)]).load [(0x2002, 0x80)])) [3] = some (0x0102, 0, [0xFF80]) := by decide
theorem test_ld8_keep :
    regsAfter (under (fun c => { c with ld8Extend := .keep })
      ((start 0x3122 0 [(1, 0x2000), (2, 2), (3, 0xABCD)]).load [(0x2002, 0x80)])) [3] = some (0x0102, 0, [0xAB80]) := by
  decide
theorem test_neg_adder_carry :
    regsAfter (under (fun c => { c with negCarry := .adder }) (start 0x211F 0 [])) [2] = some (0x0102, 0x000C, [0]) := by
  decide
theorem test_shift_count_4_bits :
    regsAfter (under (fun c => { c with shiftCountBits := .four }) (start 0x312B 0 [(1, 0x8001), (2, 0x0011)])) [3] =
      some (0x0102, 0x0008, [0x0002]) := by decide
theorem test_shift_0_keeps_carry :
    regsAfter (under (fun c => { c with shift0Carry := .unchanged }) (start 0x312B 8 [(1, 0x8001)])) [3] =
      some (0x0102, 0x0018, [0x8001]) := by decide
theorem test_flags_before_result :
    regsAfter (under (fun c => { c with srWriteOrder := .flagsThenResult }) (start 0xF126 0 [(1, 0xFFFF), (2, 3)])) [] =
      some (0x0102, 0x0002, []) := by decide
theorem test_invalid_epc_self :
    exceptionAfter (under (fun c => { c with invalidEpc := .self, vecInvalid := 5 })
      ((start 0xA05E 0x001F []).load [(0x000A, 0x04), (0x000B, 0x50)])) [] =
      some (0x0450, 0x001C, [], [0x0100, 0x001F, 0, 5, 0]) := by decide
theorem test_direct_vectors :
    exceptionAfter (under (fun c => { c with vectorMode := .direct 2 }) { start 0x32FF 0 [] with vbr := 0x0200 }) [] =
      some (0x0206, 0, [], [0x0102, 0, 0, 3, 0x0200]) := by decide
theorem test_int1_first :
    exceptionAfter (under (fun c => { c with irqPriority := .int1First }) (atBoundary 0x001B [⟨true, true⟩])) [] =
      some (0x0410, 0x0018, [], [0x0100, 0x001B, 0, 1, 0x0200]) := by decide
theorem test_absent_serial_port :
    eventsAfter (under (fun c => { c with serialPresent := false }) { start 0x208F 0 [] with ioIn := [7] }) [2] =
      some (0x0102, 0, [0xFFFF], []) ∧
    eventsAfter (under (fun c => { c with serialPresent := false }) (start 0x209F 0 [])) [] =
      some (0x0102, 0, [], []) := by decide

/-! ### Witnesses: what the hypotheses of the obligations ask, met -/

/-- A state with memory written at both ends of RAM, r1 = 0xC000 and r3 = 0xFFFE, and an instruction at 0x0100. -/
def sample (w : Word) : State :=
  (start w 0x0003 [(1, 0xC000), (3, 0xFFFE)]).load [(0xC000, 0x12), (0xC001, 0x34), (0xFFFE, 0x56), (0xFFFF, 0x78)]

/-- `State.Inv`, decided. -/
theorem inv_of_check {s : State}
    (h : (Memory.wf s.mem && s.stale.all fun a => decide ((a - s.pc).toNat < s.cfg.pcAhead.bytes - 2)) = true) : s.Inv := by
  rw [Bool.and_eq_true, List.all_eq_true] at h
  exact ⟨h.1, fun a ha => of_decide_eq_true (h.2 a ha)⟩
theorem witness_sample_invariant : (sample 0x3126).Inv := inv_of_check (by decide)
theorem witness_DecodeOfEncodeIsTheInstruction :
    defaultConfig.encodingsAssigned = true ∧ otherTables.encodingsAssigned = true ∧ Instr.wf (.addi 8 .pc) = true ∧
      Instr.wf (.lsri 8 .sr) = true ∧ Instr.wf (.bra (-128)) = true := by decide
theorem witness_InvalidWordsAreTheTwoGroups :
    isInvalid (decoded 0xA00E) = true ∧ isInvalid (decoded 0x9FFE) = false ∧ isInvalid (decoded 0x0DFF) = true ∧
      isInvalid (decoded 0x0CFF) = false := by decide
theorem witness_ByteStoreReplacesOneByte :
    Memory.wf (sample 0).mem = true ∧ (sample 0).kindOf 0xC000 = .ram ∧ (sample 0).kindOf 0xFFFF = .ram := by decide
theorem witness_WordStoreThenReadsFollowTheByteOrder :
    Memory.wf (sample 0).mem = true ∧ (0xC000 : Word).toNat % 2 = 0 ∧ (sample 0).kindOf 0xC000 = .ram ∧
      (sample 0).kindOf (0xC000 + 1#16) = .ram ∧ (0xFFFE : Word).toNat % 2 = 0 ∧ (sample 0).kindOf 0xFFFE = .ram ∧
      (sample 0).kindOf (0xFFFE + 1#16) = .ram := by decide
/-- An address that nothing is mapped at, in a machine with no RAM. -/
def noRam (s : State) : State := under (fun c => { c with memMap := [{ base := 0, size := 0xC000, kind := .rom }] }) s
/-- A machine in which 0x0FFF is ROM and 0x0FFE and 0x1000 to 0x1002 are RAM, with no more mapped, all of it written
but for 0x1001. -/
def edges (s : State) : State :=
  (under (fun c => { c with memMap := [⟨0x0FFE, 1, .ram⟩, ⟨0x0FFF, 1, .rom⟩, ⟨0x1000, 3, .ram⟩] }) s).load
    [(0x0FFE, 1), (0x0FFF, 2), (0x1000, 3), (0x1002, 4)]
theorem byteReadable_of_lookup {s : State} {a : Word} (h : s.kindOf a ≠ .unmapped)
    (hr : (Memory.read s.mem a.toNat).isSome = true) : ByteReadable s a := ⟨h, Option.isSome_iff_exists.1 hr⟩
theorem witness_AccessesTheMapDoesNotAdmitFault :
    (0x0001 : Word).toNat % 2 = 1 ∧ (0xFFFF : Word).toNat % 2 = 1 ∧
      ByteReadFails (noRam (sample 0)) 0xC000 (.unmappedRead 0xC000) ∧
      ByteReadFails (sample 0) 0xC002 (.unwrittenByte 0xC002) ∧
      ByteWriteFails (noRam (sample 0)) 0xFFFF (.unmappedWrite 0xFFFF) ∧
      ByteWriteFails (sample 0) 0xBFFF (.romWrite 0xBFFF) :=
  ⟨by decide, by decide, .inl (by decide), .inr (by decide), .inl (by decide), .inr (by decide)⟩
/-- The first byte or the second at fault, at even addresses. -/
theorem witness_AccessesTheMapDoesNotAdmitFault_words :
    WordReadFails (sample 0) 0xC002 (.unwrittenByte 0xC002) ∧ WordReadFails (edges (sample 0)) 0x1000 (.unwrittenByte 0x1001) ∧
      WordReadFails (edges (sample 0)) 0x1002 (.unmappedRead 0x1003) ∧
      WordReadFails (edges (sample 0)) 0x1004 (.unmappedRead 0x1004) ∧
      WordWriteFails (edges (sample 0)) 0x0FFE (.romWrite 0x0FFF) ∧
      WordWriteFails (edges (sample 0)) 0x1002 (.unmappedWrite 0x1003) ∧
      WordWriteFails (sample 0) 0xBFFE (.romWrite 0xBFFE) :=
  ⟨.inl (.inr (by decide)), .inr ⟨byteReadable_of_lookup (by decide) (by decide), .inr (by decide)⟩,
    .inr ⟨byteReadable_of_lookup (by decide) (by decide), .inl (by decide)⟩, .inl (.inl (by decide)),
    .inr ⟨by decide, .inr (by decide)⟩, .inr ⟨by decide, .inl (by decide)⟩, .inl (.inr (by decide))⟩
theorem witness_NamingARegisterReadsItsValue : Reg.sr ≠ .pc ∧ Reg.gpr 13 ≠ .pc ∧ Reg.gpr 13 ≠ .sr := by decide
theorem witness_StepRunsTheDecodedInstruction :
    (sample 0x3126).acceptedIrq = none ∧ (sample 0x3126).pc.toNat % 2 = 0 ∧
      (sample 0x3126).pc ∉ (sample 0x3126).stale ∧ (sample 0x3126).pc + 1#16 ∉ (sample 0x3126).stale ∧
      memRead8 (sample 0x3126) (sample 0x3126).pc = .ok 0x31 ∧
      memRead8 (sample 0x3126) ((sample 0x3126).pc + 1#16) = .ok 0x26 ∧
      decode (sample 0x3126).cfg [0x31, 0x26] = .ok (.add (.gpr 1) (.gpr 2) (.gpr 3), []) := by decide
theorem witness_FetchWithoutMeaningFaults_odd :
    State.acceptedIrq { sample 0 with pc := 0x0101 } = none ∧ (0x0101 : Word).toNat % 2 = 1 := by decide
/-- `pc` at a word whose second byte is unwritten or unmapped. -/
theorem witness_FetchWithoutMeaningFaults_unreadable :
    State.acceptedIrq { edges (sample 0) with pc := 0x1000 } = none ∧ (0x1000 : Word).toNat % 2 = 0 ∧
      (0x1000 : Word) ∉ (edges (sample 0)).stale ∧ (0x1000 : Word) + 1#16 ∉ (edges (sample 0)).stale ∧
      WordReadFails { edges (sample 0) with pc := 0x1000 } 0x1000 (.unwrittenByte 0x1001) ∧
      WordReadFails { edges (sample 0) with pc := 0x1002 } 0x1002 (.unmappedRead 0x1003) :=
  ⟨by decide, by decide, by decide, by decide, .inr ⟨byteReadable_of_lookup (by decide) (by decide), .inr (by decide)⟩,
    .inr ⟨byteReadable_of_lookup (by decide) (by decide), .inl (by decide)⟩⟩
/-- What `exec` answers where it answers a next state. -/
def nextOf : Result → Option State
  | .next t => some t
  | _ => none
theorem next_of_nextOf {r : Result} {t : State} (h : nextOf r = some t) : r = .next t := by
  cases r <;> simp_all [nextOf]
/-- The state after an instruction that completes at `s`, and `s` itself where it does not. -/
def execTo (i : Instr) (s : State) : State := (nextOf (exec i s)).getD s
theorem exec_execTo {i : Instr} {s : State} (h : (nextOf (exec i s)).isSome = true) : exec i s = .next (execTo i s) := by
  apply next_of_nextOf
  unfold execTo
  cases h' : nextOf (exec i s) <;> simp_all
/-- The state one step after `s`, and `s` itself where the step stops. -/
def stepTo (s : State) : State := (after s).getD s
theorem step_stepTo {s : State} (h : (after s).isSome = true) : step s = .next (stepTo s) := by
  unfold stepTo after at *
  cases h' : step s <;> simp_all
/-- `str8`, `str16` at 0xC000 into the word at 0xC002, and `str8` into the byte at 0xC003. -/
def aheadOf (address : Word) : State := { State.reset with pc := 0xC000 }.setGpr 1 address
theorem witness_FetchWithoutMeaningFaults_stale :
    InFetchWindow (aheadOf 0xC002) 0xC002 ∧ InFetchWindow (aheadOf 0xC003) 0xC003 ∧
      ¬InFetchWindow (aheadOf 0xC004) 0xC004 ∧ (aheadOf 0xC002).pc.toNat % 2 = 0 ∧
      exec (.str8 (.gpr 1) (.gpr 2) (.gpr 3)) (aheadOf 0xC003) =
        .next (execTo (.str8 (.gpr 1) (.gpr 2) (.gpr 3)) (aheadOf 0xC003)) ∧
      (0xC003 : Word) = (aheadOf 0xC003).effectiveAddress (.gpr 1) (.gpr 2) ∧ (0xC003 : Word) = (aheadOf 0xC003).pc + 3#16 ∧
      (execTo (.str8 (.gpr 1) (.gpr 2) (.gpr 3)) (aheadOf 0xC003)).acceptedIrq = none ∧
      exec (.str16 (.gpr 1) (.gpr 2) (.gpr 3)) (aheadOf 0xC002) =
        .next (execTo (.str16 (.gpr 1) (.gpr 2) (.gpr 3)) (aheadOf 0xC002)) ∧
      (0xC002 : Word) = (aheadOf 0xC002).effectiveAddress (.gpr 1) (.gpr 2) ∧
      (execTo (.str16 (.gpr 1) (.gpr 2) (.gpr 3)) (aheadOf 0xC002)).acceptedIrq = none :=
  ⟨inFetchWindow_iff.2 (by decide), inFetchWindow_iff.2 (by decide), fun h => absurd (inFetchWindow_iff.1 h) (by decide),
    by decide, exec_execTo (by decide), by decide, by decide, by decide, exec_execTo (by decide), by decide, by decide⟩
/-- `PC_AHEAD` = 8: the window ends with the byte at A + 7. -/
theorem witness_FetchWithoutMeaningFaults_window_8 :
    InFetchWindow (under (fun c => { c with pcAhead := .eight }) (aheadOf 0xC007)) 0xC007 ∧
      ¬InFetchWindow (under (fun c => { c with pcAhead := .eight }) (aheadOf 0xC008)) 0xC008 :=
  ⟨inFetchWindow_iff.2 (by decide), fun h => absurd (inFetchWindow_iff.1 h) (by decide)⟩
/-- A stale byte outlasts a branch not taken, and no branch taken. -/
theorem witness_StaleBytesLastUntilAControlTransfer :
    (after { start 0x105E 0 [] with stale := [0x0104] }).map State.stale = some [0x0104] ∧
      (after { start 0x005E 0 [] with stale := [0x0104] }).map State.stale = some [] ∧
      (after { atBoundary 0x0001 [⟨true, false⟩] with stale := [0x0104] }).map State.stale = some [] ∧
      State.acceptedIrq { atBoundary 0x0001 [⟨true, false⟩] with stale := [0x0104] } ≠ none ∧
      State.acceptedIrq { start 0x105E 0 [] with stale := [0x0104] } = none ∧
      transfers (.brf 5) (start 0x105E 0 []) = false ∧ transfers (.bra 5) (start 0x005E 0 []) = true := by decide
theorem witness_RequestedEnabledInterruptIsEntered :
    (atBoundary 0x001B [⟨true, true⟩]).irqIn = ⟨true, true⟩ :: [] ∧
      (atBoundary 0x001B [⟨true, true⟩]).sr.getLsbD 0 = true ∧
      (atBoundary 0x001B [⟨true, true⟩]).cfg.irqPriority = .int0First ∧
      HandlerAt (atBoundary 0x001B [⟨true, true⟩]) (atBoundary 0x001B [⟨true, true⟩]).cfg.vecInt0 0x0400 ∧
      (atBoundary 0x0002 [⟨true, true⟩]).irqIn = ⟨true, true⟩ :: [] ∧
      (atBoundary 0x0002 [⟨true, true⟩]).sr.getLsbD 1 = true ∧
      (atBoundary 0x0002 [⟨true, true⟩]).sr.getLsbD 0 = false ∧
      HandlerAt (atBoundary 0x0002 [⟨true, true⟩]) (atBoundary 0x0002 [⟨true, true⟩]).cfg.vecInt1 0x0410 :=
  ⟨rfl, by decide, by decide, handlerAt_iff.2 (by decide), rfl, by decide, by decide, handlerAt_iff.2 (by decide)⟩
theorem witness_OnlyRequestedEnabledInterruptsAreTaken :
    step (atBoundary 0x0002 [⟨true, true⟩]) = .next (stepTo (atBoundary 0x0002 [⟨true, true⟩])) ∧
      (stepTo (atBoundary 0x0002 [⟨true, true⟩])).events =
        (atBoundary 0x0002 [⟨true, true⟩]).events ++ [.irqAck .int1] :=
  ⟨step_stepTo (by decide), by decide⟩
theorem witness_EveryStepKeepsTheInvariant :
    (sample 0x3324).Inv ∧ step (sample 0x3324) = .next (stepTo (sample 0x3324)) ∧
      (aheadOf 0xC002).Inv ∧ (sample 0x3324).kindOf 0x0000 ≠ .ram :=
  ⟨inv_of_check (by decide), step_stepTo (by decide), inv_of_check (by decide), by decide⟩
theorem witness_EveryStepKeepsTheInvariant_with_stale_bytes :
    (execTo (.str16 (.gpr 1) (.gpr 2) (.gpr 3)) (aheadOf 0xC002)).Inv ∧
      (execTo (.str16 (.gpr 1) (.gpr 2) (.gpr 3)) (aheadOf 0xC002)).stale.length = 2 :=
  ⟨inv_of_check (by decide), by decide⟩
theorem witness_OnlyStoresChangeMemory :
    step (sample 0x3324) = .next (stepTo (sample 0x3324)) ∧
      Memory.read (stepTo (sample 0x3324)).mem 0xFFFE ≠ Memory.read (sample 0x3324).mem 0xFFFE :=
  ⟨step_stepTo (by decide), by decide⟩
theorem witness_EurAndVbrChangeOnlyByTheirSetInstructions :
    step (sample 0x18FF) = .next (stepTo (sample 0x18FF)) ∧ (stepTo (sample 0x18FF)).eur ≠ (sample 0x18FF).eur ∧
      step (sample 0x1CFF) = .next (stepTo (sample 0x1CFF)) ∧ (stepTo (sample 0x1CFF)).vbr ≠ (sample 0x1CFF).vbr :=
  ⟨step_stepTo (by decide), by decide, step_stepTo (by decide), by decide⟩
theorem witness_EnablesChangeOnlyBySrWritesEntryAndReturn :
    exec (.cmp (.gpr 1) (.gpr 3)) (sample 0) = .next (execTo (.cmp (.gpr 1) (.gpr 3)) (sample 0)) ∧
      .sr ∉ destinations (.cmp (.gpr 1) (.gpr 3)) ∧ entersException (.cmp (.gpr 1) (.gpr 3)) = false ∧
      isReti (.cmp (.gpr 1) (.gpr 3)) = false := ⟨exec_execTo (by decide), by decide, by decide, by decide⟩
theorem witness_GeneralRegistersChangeOnlyAsDestinations :
    step (sample 0x2126) = .next (stepTo (sample 0x2126)) ∧ (stepTo (sample 0x2126)).gpr 2 ≠ (sample 0x2126).gpr 2 :=
  ⟨step_stepTo (by decide), by decide⟩
theorem witness_EventsAreRecordedInProgramOrder :
    step (sample 0x339F) = .next (stepTo (sample 0x339F)) ∧ (stepTo (sample 0x339F)).events ≠ (sample 0x339F).events :=
  ⟨step_stepTo (by decide), by decide⟩
/-- The ends of the ranges the statements on immediates and offsets are about (R100). -/
theorem witness_immediate_ranges :
    (-128 : Int) ≤ -128 ∧ (-128 : Int) ≤ 127 ∧ (127 : Int) ≤ 127 ∧ (0 : Nat) ≤ 255 ∧ (255 : Nat) ≤ 255 ∧
      signed4NoZero (-8) = true ∧ signed4NoZero 8 = true ∧ (1 : Nat) ≤ 1 ∧ (8 : Nat) ≤ 8 ∧ (-8 : Int) ≤ 7 := by decide
theorem witness_LoadsBringTheAddressedDataToRd :
    (0xC000 : Word).toNat = (((sample 0).read (.gpr 1)).toNat + ((sample 0).read (.gpr 2)).toNat) % 65536 ∧
      (sample 0).kindOf 0xC000 ≠ .unmapped ∧ Memory.read (sample 0).mem (0xC000 : Word).toNat = some 0x12 ∧
      WordAt (sample 0) 0xC000 0x1234 ∧
      (0xFFFE : Word).toNat = (((sample 0).read (.gpr 3)).toNat + ((sample 0).read (.gpr 2)).toNat) % 65536 ∧
      WordAt (sample 0) 0xFFFE 0x5678 :=
  ⟨by decide, by decide, by decide, wordAt_iff.2 (by decide), by decide, wordAt_iff.2 (by decide)⟩
theorem witness_StoresWriteTheAddressedBytesAlone :
    (sample 0).Inv ∧ (0xC000 : Word) = (sample 0).effectiveAddress (.gpr 1) (.gpr 2) ∧ (0xC000 : Word).toNat % 2 = 0 ∧
      (sample 0).kindOf 0xC000 = .ram ∧ (sample 0).kindOf (0xC000 + 1#16) = .ram ∧
      (0xFFFE : Word) = (sample 0).effectiveAddress (.gpr 3) (.gpr 2) ∧ (sample 0).kindOf 0xFFFE = .ram ∧
      (sample 0).kindOf (0xFFFE + 1#16) = .ram :=
  ⟨inv_of_check (by decide), by decide, by decide, by decide, by decide, by decide, by decide, by decide⟩
/-- `edges` with `a` in r1, the effective address of r1 and r2. -/
def edgesAt (a : Word) : State := edges (start 0 0 [(1, a)])
theorem witness_LoadsAndStoresFaultWhereTheAccessHasNoMeaning :
    ([0x0FFE, 0x1000, 0x1002, 0x1004, 0xFFFF] : List Word).all
        (fun a => (edgesAt a).effectiveAddress (.gpr 1) (.gpr 2) == a) = true ∧ (0xFFFF : Word).toNat % 2 = 1 ∧
      ByteReadFails (edgesAt 0x1004) 0x1004 (.unmappedRead 0x1004) ∧ ByteWriteFails (edgesAt 0x1004) 0x1004 (.unmappedWrite 0x1004) ∧
      WordReadFails (edgesAt 0x1000) 0x1000 (.unwrittenByte 0x1001) ∧
      WordReadFails (edgesAt 0x1002) 0x1002 (.unmappedRead 0x1003) ∧
      WordWriteFails (edgesAt 0x0FFE) 0x0FFE (.romWrite 0x0FFF) ∧
      WordWriteFails (edgesAt 0x1002) 0x1002 (.unmappedWrite 0x1003) :=
  ⟨by decide, by decide, .inl (by decide), .inl (by decide),
    .inr ⟨byteReadable_of_lookup (by decide) (by decide), .inr (by decide)⟩,
    .inr ⟨byteReadable_of_lookup (by decide) (by decide), .inl (by decide)⟩, .inr ⟨by decide, .inr (by decide)⟩,
    .inr ⟨by decide, .inl (by decide)⟩⟩
theorem test_word_accesses_at_the_edges :
    exec (.ld16 (.gpr 1) (.gpr 2) (.gpr 3)) (edgesAt 0x1000) = .fault (.unwrittenByte 0x1001) ∧
      exec (.ld16 (.gpr 1) (.gpr 2) (.gpr 3)) (edgesAt 0x1002) = .fault (.unmappedRead 0x1003) ∧
      exec (.str16 (.gpr 1) (.gpr 2) (.gpr 3)) (edgesAt 0x0FFE) = .fault (.romWrite 0x0FFF) ∧
      exec (.str16 (.gpr 1) (.gpr 2) (.gpr 3)) (edgesAt 0x1002) = .fault (.unmappedWrite 0x1003) := ⟨rfl, rfl, rfl, rfl⟩
theorem witness_shift_counts :
    countOf (start 0 0 []) ((start 0 0 []).read (.gpr 2)) = 0 ∧
      countOf (start 0 0 [(2, 0xFFFF)]) ((start 0 0 [(2, 0xFFFF)]).read (.gpr 2)) = 65535 := by decide
theorem witness_AddThenAdcAddsDoubleWords : (4 : Fin 14) ≠ 1 ∧ (4 : Fin 14) ≠ 3 ∧ (4 : Fin 14) ≠ 5 := by decide
theorem witness_CarryBranchesDecideUnsignedComparisons :
    exec (.cmp (.gpr 1) (.gpr 3)) (sample 0) = .next (execTo (.cmp (.gpr 1) (.gpr 3)) (sample 0)) ∧
      exec (.cmpi (-8) (.gpr 3)) (sample 0) = .next (execTo (.cmpi (-8) (.gpr 3)) (sample 0)) ∧
      (sample 0).read (.gpr 1) = 0xC000 := ⟨exec_execTo (by decide), exec_execTo (by decide), by decide⟩
theorem witness_NegThenAddSubtracts : (2 : Fin 14) ≠ 1 := by decide
theorem witness_IoReadsTakeTheEnvironmentsAnswer :
    (∃ rA, Instr.inp (.gpr 1) .sr = .inp rA .sr ∧ (0xC000 : Word) = (sample 0).read rA) ∧
      (∃ im : Nat, im ≤ 15 ∧ Instr.ini 15 .pc = .ini im .pc ∧ (0x000F : Word).toNat = im) ∧
      State.absentPort (under (fun c => { c with serialPresent := false }) (sample 0)) 0x0000 = true ∧
      (sample 0).absentPort 0x0000 = false :=
  ⟨⟨_, rfl, by decide⟩, ⟨15, by decide, rfl, by decide⟩, by decide, by decide⟩
theorem witness_IoWritesAreRecordedAndChangeNoCpuState :
    (∃ rA, Instr.out (.gpr 1) .sr = .out rA .sr ∧ (0xC000 : Word) = (sample 0).read rA) ∧
      ∃ im : Nat, im ≤ 15 ∧ Instr.outi 15 .pc = .outi im .pc ∧ (0x000F : Word).toNat = im :=
  ⟨⟨_, rfl, by decide⟩, 15, by decide, rfl, by decide⟩
/-- Table T of section 2.11 at 0: slots 0, 2 and 15. -/
def tableAt0 : State :=
  (start 0x02FF 0x001F [(1, 15)]).load
    [(0x0000, 0x04), (0x0001, 0x00), (0x0004, 0x04), (0x0005, 0x20), (0x001E, 0x04), (0x001F, 0xF0)]
theorem witness_TrapsEnterTheirVector :
    HandlerAt tableAt0 (tableAt0.read (.gpr 1)) 0x04F0 ∧ (0x0000 : Word).toNat = 0 ∧ HandlerAt tableAt0 0x0000 0x0400 ∧
      (0x000F : Word).toNat = 15 ∧ HandlerAt tableAt0 0x000F 0x04F0 :=
  ⟨handlerAt_iff.2 (by decide), rfl, handlerAt_iff.2 (by decide), rfl, handlerAt_iff.2 (by decide)⟩
theorem witness_InvalidWordsEnterTheInvalidInstructionException :
    HandlerAt tableAt0 tableAt0.cfg.vecInvalid 0x0420 ∧
      Instr.invalidSub1F 15 ∈ [Instr.invalidCc10 5, .invalidCc11 5, .invalidCc12 5, .invalidCc13 5,
        .invalidCc14 5, .invalidCc15 5, .invalidSub1D 15, .invalidSub1E 15, .invalidSub1F 15] :=
  ⟨handlerAt_iff.2 (by decide), by decide⟩
theorem witness_EntryFaultsExactlyWhereNoHandlerIsFound :
    (∃ rD, Instr.trap (.gpr 1) = .trap rD ∧ (15 : Word) = tableAt0.read rD) ∧ HandlerAt tableAt0 15 0x04F0 ∧
      (∃ im : Nat, Instr.trapi 3 = .trapi im ∧ (3 : Word) = BitVec.ofNat 16 im) ∧
      exec (.trapi 3) tableAt0 = .fault (.unwrittenByte 0x0006) ∧ isInvalid (.invalidCc10 5) = true ∧
      (2 : Word) = tableAt0.cfg.vecInvalid :=
  ⟨⟨_, rfl, by decide⟩, handlerAt_iff.2 (by decide), ⟨3, rfl, by decide⟩, rfl, by decide, by decide⟩
theorem witness_HandlerThatParksARegisterReturnsTransparently :
    exec (.trap (.gpr 1)) tableAt0 = .next (execTo (.trap (.gpr 1)) tableAt0) := exec_execTo (by decide)
theorem witness_EndedRunsStayWhereTheyAre : (start 0x0FEE 0x0003 []).runEnded = true := by decide

end Sys2Proof.Tests
end

section
/-! The statements about memory (spec/20_memory.md). -/

namespace Sys2Proof.Proofs

open Sys2Proof.Machine

/-- Every byte after one byte has been stored, by address as the machine has it: two addresses are one number only where
they are the same word (R50, R53). -/
theorem read_storeByte {s : State} (h : Memory.wf s.mem = true) (a b : Word) (v : Byte) :
    Memory.read (s.storeByte a v).mem b.toNat = if b = a then some v else Memory.read s.mem b.toNat := by
  rw [State.mem_storeByte, Memory.read_write _ h]
  simp only [BitVec.toNat_inj, eq_comm]

/-- Settles O6: RAM admits the write (R56), so the state after it is the one with that byte stored. -/
theorem byteStoreReplacesOneByte : Obligations.ByteStoreReplacesOneByte := by
  intro s a v hwf hram
  exact ⟨s.storeByte a v, memWrite8_ok.2 ⟨hram, rfl⟩, fun b => read_storeByte hwf a b v⟩

end Sys2Proof.Proofs
end

section
/-! The statements about load immediate (spec/40_load_immediate.md). -/

namespace Sys2Proof.Proofs

open Sys2Proof.Machine

/-- A word of format I8 decodes nibble by nibble, its 8-bit field as two of them (R81, R96). -/
theorem decodeWord_packI8 (cfg : Config) (top : BitVec 4) (imm8 : BitVec 8) (op : BitVec 4) :
    decodeWord cfg (packI8 top imm8 op) =
      decodeNibbles cfg top (imm8.extractLsb' 4 4) (imm8.extractLsb' 0 4) op := by
  simp only [decodeWord, packI8_eq_packNibbles, nibbleAt_packNibbles_12, nibbleAt_packNibbles_8,
    nibbleAt_packNibbles_4, nibbleAt_packNibbles_0]

/-- Primary opcode 0x0 is `ldim`, its immediate the 8-bit field as a signed number (R89, R90). -/
theorem decodeWord_ldim (cfg : Config) (imm8 : BitVec 8) (rD : Reg) :
    decodeWord cfg (packI8 (nibbleOfReg rD) imm8 0x0#4) = .ldim imm8.toInt rD := by
  rw [decodeWord_packI8]
  simp [decodeNibbles]

/-- An immediate in the signed 16-bit range is the number its operand word holds (R90). -/
theorem immWord_toInt {im : Int} (hlo : -32768 ≤ im) (hhi : im < 32768) : (immWord im).toInt = im :=
  BitVec.toInt_ofInt_eq_self (by decide) hlo hhi

/-- `ldim` writes the operand word of its immediate and nothing else, whatever the immediate (R111). -/
theorem yields_ldim (im : Int) (rD : Reg) (s : State) : Claims.Yields (.ldim im rD) s rD (immWord im) :=
  Claims.yields_of_finish rfl

/-- Settles O23: the 8-bit field holds an immediate in range exactly, so decoding gives it back, and the word written
is the same signed number at 16 bits. -/
theorem ldimLoadsTheSignExtendedImmediate : Obligations.LdimLoadsTheSignExtendedImmediate := by
  intro im rD s hlo hhi
  have hfield : (BitVec.ofInt 8 im).toInt = im := BitVec.toInt_ofInt_eq_self (by decide) hlo (by omega)
  refine ⟨?_, immWord im, immWord_toInt (by omega) (by omega), yields_ldim im rD s⟩
  calc decodeWord s.cfg (packI8 (nibbleOfReg rD) (BitVec.ofInt 8 im) 0x0#4)
      = .ldim (BitVec.ofInt 8 im).toInt rD := decodeWord_ldim s.cfg _ rD
    _ = .ldim im rD := by rw [hfield]

end Sys2Proof.Proofs
end

section
/-! The statements about the conditional branches (spec/43_branch.md). -/

namespace Sys2Proof.Proofs

open Sys2Proof.Machine

/-- Primary opcode 0xE is format B: the condition in bits 15:12, the offset in bits 11:4, under any tables (R83, R89). -/
theorem decodeWord_formatB (cfg : Config) (cc : BitVec 4) (off8 : BitVec 8) :
    decodeWord cfg (packI8 cc off8 0xE#4) = decodeBranch cc off8 := by
  rw [decodeWord_packI8]
  simp [decodeNibbles]

/-- Where the condition `cc` is the branch `branch`, its word with an offset in range decodes to it with that offset: the
8-bit field holds the offset exactly (R90, R100, R151). -/
theorem decodeWord_packBranch {cc : BitVec 4} {branch : Int → Instr} {off : Int} (cfg : Config)
    (hcond : ∀ off8 : BitVec 8, decodeBranch cc off8 = branch off8.toInt) (hlo : -128 ≤ off) (hhi : off ≤ 127) :
    decodeWord cfg (packBranch cc off) = branch off := by
  have hfield : (BitVec.ofInt 8 off).toInt = off := BitVec.toInt_ofInt_eq_self (by decide) hlo (by omega)
  calc decodeWord cfg (packBranch cc off)
      = decodeBranch cc (BitVec.ofInt 8 off) := decodeWord_formatB cfg cc _
    _ = branch (BitVec.ofInt 8 off).toInt := hcond _
    _ = branch off := by rw [hfield]

/-- A conditional branch: under its condition code it is what an offset in range decodes to, and its meaning is `branchIf`
on the value `taken` of its condition (R150, R151). -/
theorem decodes_and_branchesIf {cc : BitVec 4} {branch : Int → Instr} {off : Int} {s : State} {taken : Bool}
    (hlo : -128 ≤ off) (hhi : off ≤ 127) (hcond : ∀ off8 : BitVec 8, decodeBranch cc off8 = branch off8.toInt)
    (hexec : exec (branch off) s = .next (s.branchIf taken off)) :
    decodeWord s.cfg (packBranch cc off) = branch off ∧ Claims.BranchesIf (branch off) s taken off :=
  ⟨decodeWord_packBranch s.cfg hcond hlo hhi, Claims.branches_of_branchIf hexec⟩

/-- Settles O35: for each branch, its row of R151 names it (the decoder's arm), and its meaning takes the branch on the
flag its rule names: none, Z in bit 2 of SR or N in bit 4. -/
theorem flagBranchesGoWhereTheirConditionSays : Obligations.FlagBranchesGoWhereTheirConditionSays := by
  intro off s hlo hhi
  refine ⟨?bra, ?brf, ?beq, ?bne, ?bmi, ?bpl⟩
  case bra => exact decodes_and_branchesIf (branch := .bra) hlo hhi (fun _ => rfl) rfl
  case brf => exact decodes_and_branchesIf (branch := .brf) hlo hhi (fun _ => rfl) rfl
  case beq => exact decodes_and_branchesIf (branch := .beq) (taken := flagZ s.sr) hlo hhi (fun _ => rfl) rfl
  case bne => exact decodes_and_branchesIf (branch := .bne) (taken := !flagZ s.sr) hlo hhi (fun _ => rfl) rfl
  case bmi => exact decodes_and_branchesIf (branch := .bmi) (taken := flagN s.sr) hlo hhi (fun _ => rfl) rfl
  case bpl => exact decodes_and_branchesIf (branch := .bpl) (taken := !flagN s.sr) hlo hhi (fun _ => rfl) rfl

end Sys2Proof.Proofs
end

section
/-! The statements about the two-register instructions (spec/44_two_operand.md). -/

namespace Sys2Proof.Proofs

open Sys2Proof.Machine

/-- Two nibbles before a byte of two nibbles are a word of four: a word written with `SUB2` and the primary opcode as one
byte is of format R2 (R84). -/
theorem append_byte_eq_packNibbles (n3 n2 n1 n0 : BitVec 4) : n3 ++ n2 ++ (n1 ++ n0) = packNibbles n3 n2 n1 n0 := by
  rw [packNibbles, BitVec.append_assoc (x₁ := n3 ++ n2)]
  rfl

/-- A word of format R2 is the row of `SUB2` its bits 7:4 name, rA in bits 11:8 and rD in bits 15:12, under any tables
(R84, R87). -/
theorem decodeWord_packR2 (cfg : Config) (rA rD : Reg) (sub2 : BitVec 4) :
    decodeWord cfg (packR2 rA rD sub2) = decodeSub2 cfg sub2 (nibbleOfReg rA) (nibbleOfReg rD) := by
  simp only [decodeWord, packR2, nibbleAt_packNibbles_12, nibbleAt_packNibbles_8, nibbleAt_packNibbles_4,
    nibbleAt_packNibbles_0]
  rfl

/-- `SUB2` 0x0 is `mov`, under any tables (R87). -/
theorem decodeWord_mov (cfg : Config) (rA rD : Reg) : decodeWord cfg (packR2 rA rD 0x0#4) = .mov rA rD := by
  rw [decodeWord_packR2]
  simp [decodeSub2]

/-- `mov` writes the value naming rA yields to rD and nothing else, r14 and r15 included (R166). -/
theorem yields_mov (rA rD : Reg) (s : State) : Claims.Yields (.mov rA rD) s rD (s.read rA) :=
  Claims.yields_of_finish rfl

/-- Settles O37: the low byte 0x0F is `SUB2` 0x0 with the primary opcode 0xF, so the word decodes to `mov`, whose
meaning is one write of rD. -/
theorem movCopiesRaToRd : Obligations.MovCopiesRaToRd := by
  intro rA rD s
  refine ⟨?decodes, yields_mov rA rD s⟩
  case decodes =>
    calc decodeWord s.cfg (nibbleOfReg rD ++ nibbleOfReg rA ++ (0x0#4 ++ 0xF#4))
        = decodeWord s.cfg (packR2 rA rD 0x0#4) := congrArg _ (append_byte_eq_packNibbles _ _ _ _)
      _ = .mov rA rD := decodeWord_mov s.cfg rA rD

end Sys2Proof.Proofs
end

section
/-! The statement that decoding undoes encoding (spec/30_encoding.md): one lemma per format, then the instructions. -/

namespace Sys2Proof.Proofs

open Sys2Proof.Machine Sys2Proof.Claims

/-! ### Decoding a packed word, by format -/

/-- A word of format R3 is the row its primary opcode names (R82). -/
theorem decodeWord_packR3 (cfg : Config) (rA rB rD : Reg) (op : BitVec 4) :
    decodeWord cfg (packR3 rA rB rD op) =
      decodeNibbles cfg (nibbleOfReg rD) (nibbleOfReg rA) (nibbleOfReg rB) op := by
  simp only [decodeWord, packR3, nibbleAt_packNibbles_12, nibbleAt_packNibbles_8, nibbleAt_packNibbles_4,
    nibbleAt_packNibbles_0]

/-- A word whose bits 7:4 hold the code of a row of `ENC2` decodes to the instruction of that row (R85, R87). -/
theorem decodeWord_packI4 {cfg : Config} (h : cfg.encodingsAssigned = true) (mid : BitVec 4) (rD : Reg)
    (row : Enc2Row) :
    decodeWord cfg (packI4 mid rD (cfg.code2 row)) = decodeEnc2 cfg row mid (nibbleOfReg rD) := by
  rw [← decodeSub2_code2 h]
  simp only [decodeWord, packI4, nibbleAt_packNibbles_12, nibbleAt_packNibbles_8, nibbleAt_packNibbles_4,
    nibbleAt_packNibbles_0]
  rfl

/-- `in` and `out` hold rA where the other rows of `ENC2` hold an immediate (R85). -/
theorem decodeWord_packR2_code2 {cfg : Config} (h : cfg.encodingsAssigned = true) (rA rD : Reg) (row : Enc2Row) :
    decodeWord cfg (packR2 rA rD (cfg.code2 row)) = decodeEnc2 cfg row (nibbleOfReg rA) (nibbleOfReg rD) :=
  decodeWord_packI4 h (nibbleOfReg rA) rD row

/-- A word of format R1 is of the third level, with the code of its row of `ENC1` (R86, R88). -/
theorem decodeWord_packR1 {cfg : Config} (h : cfg.encodingsAssigned = true) (top : BitVec 4) (row : Enc1Row) :
    decodeWord cfg (packR1 cfg top row) = decodeSub1 cfg (cfg.code1 row) top := by
  calc decodeWord cfg (packR1 cfg top row)
      = decodeSub2 cfg (cfg.code2 .escape) (cfg.code1 row) top := by
        simp only [decodeWord, packR1, nibbleAt_packNibbles_12, nibbleAt_packNibbles_8, nibbleAt_packNibbles_4,
          nibbleAt_packNibbles_0]
        rfl
    _ = decodeSub1 cfg (cfg.code1 row) top := decodeSub2_code2 h .escape _ _

/-! ### The immediates read back (R90 to R92, R100) -/

/-- An 8-bit signed immediate in range is the number its field holds. -/
theorem toInt_ofInt_of_signed8 {im : Int} (h : signed8 im = true) : (BitVec.ofInt 8 im).toInt = im := by
  obtain ⟨hlo, hhi⟩ : -128 ≤ im ∧ im ≤ 127 := by simpa [signed8] using h
  exact BitVec.toInt_ofInt_eq_self (by decide) hlo (by omega)

/-- The operand of `addi`, `andi`, `ori` is the number its field stands for, 0 standing for 8. -/
theorem immAOfField_fieldOfImmA {im : Int} (h : signed4NoZero im = true) : immAOfField (fieldOfImmA im) = im := by
  have hrange : (-8 ≤ im ∧ im ≤ -1) ∨ (1 ≤ im ∧ im ≤ 8) := by simpa [signed4NoZero] using h
  rcases hrange with ⟨hlo, hhi⟩ | ⟨hlo, hhi⟩ <;> interval_cases im <;> rfl

/-- The operand of `cmpi` is the number its field holds. -/
theorem toInt_ofInt_of_signed4 {im : Int} (h : signed4 im = true) : (BitVec.ofInt 4 im).toInt = im := by
  obtain ⟨hlo, hhi⟩ : -8 ≤ im ∧ im ≤ 7 := by simpa [signed4] using h
  exact BitVec.toInt_ofInt_eq_self (by decide) hlo (by omega)

/-- The field of an immediate shift: bit 11 holds the direction. -/
theorem msb_ofBool_append (dir : Bool) (count : BitVec 3) : (BitVec.ofBool dir ++ count).msb = dir := by
  cases dir <;> revert count <;> decide

/-- The field of an immediate shift: bits 10:8 hold the count. -/
theorem extractLsb'_ofBool_append (dir : Bool) (count : BitVec 3) :
    (BitVec.ofBool dir ++ count).extractLsb' 0 3 = count := by
  cases dir <;> revert count <;> decide

/-- The count of an immediate shift is the number its field stands for, 0 standing for 8. -/
theorem countOfField_fieldOfCount {im : Nat} (h : shiftImm im = true) : countOfField (fieldOfCount im) = im := by
  obtain ⟨hlo, hhi⟩ : 1 ≤ im ∧ im ≤ 8 := by simpa [shiftImm] using h
  interval_cases im <;> rfl

/-- The row the two immediate shifts share tells them apart by bit 11 (R92). -/
theorem decodeWord_packShift {cfg : Config} (h : cfg.encodingsAssigned = true) (dir : Bool) {im : Nat} (rD : Reg)
    (him : shiftImm im = true) :
    decodeWord cfg (packShift cfg dir im rD) = if dir = cfg.lsriBit then .lsri im rD else .lsli im rD := by
  rw [packShift, decodeWord_packI4 h]
  simp only [decodeEnc2, msb_ofBool_append, extractLsb'_ofBool_append, countOfField_fieldOfCount him,
    regOfNibble_nibbleOfReg]

/-- Settles O1: each instruction's word is of one of the formats, whose fields decode to its operands; a row of `ENC2` or
`ENC1` is found again at its code, for the tables are assigned. -/
theorem decodeOfEncodeIsTheInstruction : Obligations.DecodeOfEncodeIsTheInstruction := by
  intro cfg i h hwf
  cases i with
  | ldim im rD =>
    have him := toInt_ofInt_of_signed8 hwf
    simp only [encode, decodeWord_ldim, him]
  | ldimh im rD =>
    have him : im ≤ 255 := by simpa [Instr.wf, unsigned8] using hwf
    rw [encode, decodeWord_packI8]
    simp [decodeNibbles]; omega
  | ld8 | ld16 | str8 | str16 | add | adc | and | or | xor | lsl | lsr | asr =>
    rw [encode, decodeWord_packR3]
    simp [decodeNibbles]
  | bra | brf | beq | bne | bmi | bpl | bcs | bcc | bgr | ble =>
    have him := toInt_ofInt_of_signed8 hwf
    rw [encode, packBranch, decodeWord_formatB]
    simp only [decodeBranch, him]
    rfl
  | mov | neg | not | cmp | call | swap =>
    rw [encode, decodeWord_packR2]
    simp [decodeSub2]
  | inp | out =>
    rw [encode, decodeWord_packR2_code2 h]
    simp [decodeEnc2]
  | ini im | outi im =>
    have him : im ≤ 15 := by simpa [Instr.wf, unsigned4] using hwf
    rw [encode, decodeWord_packI4 h]
    simp [decodeEnc2]; omega
  | addi | andi | ori =>
    have him := immAOfField_fieldOfImmA hwf
    rw [encode, decodeWord_packI4 h]
    simp [decodeEnc2, him]
  | lsli im rD => simpa [encode] using decodeWord_packShift h (!cfg.lsriBit) rD hwf
  | lsri im rD => simpa [encode] using decodeWord_packShift h cfg.lsriBit rD hwf
  | cmpi im rD =>
    have him := toInt_ofInt_of_signed4 hwf
    rw [encode, decodeWord_packI4 h]
    simp only [decodeEnc2, him, regOfNibble_nibbleOfReg]
  | trapi im =>
    have him : im ≤ 15 := by simpa [Instr.wf, unsigned4] using hwf
    rw [encode, decodeWord_packR1 h]
    simp [decodeSub1, Config.enc1At_code1 h]; omega
  | reti | trap | getepc | setepc | getesr | setesr | geteur | seteur | getenum | setenum | getvbr | setvbr
  | invalidSub1D | invalidSub1E | invalidSub1F =>
    rw [encode, decodeWord_packR1 h]
    simp [decodeSub1, Config.enc1At_code1 h]
  | invalidCc10 | invalidCc11 | invalidCc12 | invalidCc13 | invalidCc14 | invalidCc15 =>
    rw [encode, decodeWord_formatB]
    rfl

end Sys2Proof.Proofs
end

section
/-! What an instruction that completes can have done, said once for all of them: the inversion of `exec`, and with it
that of `step`. Every statement about all steps is a case split over it. -/

namespace Sys2Proof.Proofs

open Sys2Proof.Machine Sys2Proof.Claims

/-- The ways an instruction `i` executed at `s` can complete: one constructor per end the meanings share, with what the
instruction must be for it and whether it transfers control. -/
inductive Effect (s : State) (i : Instr) : State → Prop where
  | writes (r : Reg) (v : Word) (hdest : destinations i = [r])
      (htransfers : transfers i s = (destinations i).contains .pc) : Effect s i (s.finish r v)
  | writesWithFlags (r : Reg) (v : Word) (c : Option Bool) (hdest : destinations i = [r])
      (htransfers : transfers i s = (destinations i).contains .pc) : Effect s i (s.finishWithFlags r v c)
  | compares (d : Word) (b : Bool) (htransfers : transfers i s = false) : Effect s i (s.finishCompare d b)
  | branches (off : Int) : Effect s i (s.branchIf (transfers i s) off)
  | calls (r : Reg) (target : Word) (hdest : destinations i = [r]) (htransfers : transfers i s = true) :
      Effect s i ((s.finish r (s.pc + 2#16)).jump target)
  | swaps (rA rD : Reg) (v u : Word) (hdest : destinations i = [rA, rD])
      (htransfers : transfers i s = (destinations i).contains .pc) : Effect s i ((s.finish rA v).write rD u)
  | readsPort (port : Word) (r : Reg) (hdest : destinations i = [r])
      (htransfers : transfers i s = (destinations i).contains .pc) : Effect s i (s.ioReadTo port r)
  | writesPort (port v : Word) (htransfers : transfers i s = false) : Effect s i (s.ioWrite port v).advance
  | storesByte (rA rB rD : Reg) (a : Word) (v : Byte) (hinstr : i = .str8 rA rB rD)
      (ha : a = s.effectiveAddress rA rB) (hram : s.kindOf a = .ram) : Effect s i (s.storeByte a v).advance
  | storesWord (rA rB rD : Reg) (a : Word) (u v : Byte) (hinstr : i = .str16 rA rB rD)
      (ha : a = s.effectiveAddress rA rB) (heven : misaligned a = false) (hram : s.kindOf a = .ram)
      (hram' : s.kindOf (a + 1#16) = .ram) :
      Effect s i ((s.storeByte a u).storeByte (a + 1#16) v).advance
  | setsEpc (v : Word) (htransfers : transfers i s = false) : Effect s i (s.advance.setEpc v)
  | setsEsr (v : Word) (htransfers : transfers i s = false) : Effect s i (s.advance.setEsr v)
  | setsEur (r : Reg) (v : Word) (hinstr : i = .seteur r) : Effect s i (s.advance.setEur v)
  | setsEnum (v : Word) (htransfers : transfers i s = false) : Effect s i (s.advance.setEnum v)
  | setsVbr (r : Reg) (v : Word) (hinstr : i = .setvbr r) : Effect s i (s.advance.setVbr v)
  | returns (r : Reg) (hdest : destinations i = [r]) (hreti : isReti i = true) (htransfers : transfers i s = true) :
      Effect s i (s.returnFromException r)
  | enters (number ret handler : Word) (henters : entersException i = true) (htransfers : transfers i s = true) :
      Effect s i (s.enter number ret handler)

/-- An instruction that enters an exception and completes has entered it. -/
theorem effect_of_takeException {i : Instr} {s t : State} {number ret : Word} (henters : entersException i = true)
    (htransfers : transfers i s = true) (h : takeException number ret s = .next t) : Effect s i t := by
  obtain ⟨handler, -, rfl⟩ := takeException_next.1 h
  exact .enters number ret handler henters htransfers

/-- Every instruction that completes has ended in one of those ways: one case per arm of `exec`. -/
theorem effect_of_exec {i : Instr} {s t : State} (h : exec i s = .next t) : Effect s i t := by
  cases i with
  | ldim | ldimh | mov | getepc | getesr | geteur | getenum | getvbr =>
    cases h; exact .writes _ _ rfl rfl
  | ld8 | ld16 =>
    obtain ⟨v, -, rfl⟩ := orFault_next.1 h
    exact .writes _ _ rfl rfl
  | add | adc | and | or | xor | lsl | lsr | asr | neg | not | addi | andi | ori | lsli | lsri =>
    cases h; exact .writesWithFlags _ _ _ rfl rfl
  | cmp | cmpi => cases h; exact .compares _ _ rfl
  | bra off | brf off | beq off | bne off | bmi off | bpl off | bcs off | bcc off | bgr off | ble off =>
    cases h; exact .branches off
  | call => cases h; exact .calls _ _ rfl rfl
  | swap => cases h; exact .swaps _ _ _ _ rfl rfl
  | inp | ini => cases h; exact .readsPort _ _ rfl rfl
  | out | outi => cases h; exact .writesPort _ _ rfl
  | str8 =>
    obtain ⟨_, hw, rfl⟩ := orFault_next.1 h
    obtain ⟨hram, rfl⟩ := memWrite8_ok.1 hw
    exact .storesByte _ _ _ _ _ rfl rfl hram
  | str16 =>
    obtain ⟨_, hw, rfl⟩ := orFault_next.1 h
    obtain ⟨heven, hram, hram', rfl⟩ := memWrite16_ok.1 hw
    exact .storesWord _ _ _ _ _ _ rfl rfl heven hram hram'
  | setepc => cases h; exact .setsEpc _ rfl
  | setesr => cases h; exact .setsEsr _ rfl
  | seteur => cases h; exact .setsEur _ _ rfl
  | setenum => cases h; exact .setsEnum _ rfl
  | setvbr => cases h; exact .setsVbr _ _ rfl
  | reti => cases h; exact .returns _ rfl rfl rfl
  | trap | trapi | invalidCc10 | invalidCc11 | invalidCc12 | invalidCc13 | invalidCc14 | invalidCc15 | invalidSub1D
  | invalidSub1E | invalidSub1F => exact effect_of_takeException rfl rfl h

/-- What a step that answers a next state has done: entered the interrupt accepted at its boundary and told the
environment, or fetched a word and had the effect of its instruction, the boundary passed (R222). -/
theorem step_effect {s t : State} (h : step s = .next t) :
    (∃ n handler, s.acceptedIrq = some n ∧
        t = (s.passBoundary.tell (.irqAck n)).enter (s.irqNumber n) s.pc handler) ∨
      (s.acceptedIrq = none ∧ ∃ w, fetchWord s = .ok w ∧ Effect s.passBoundary (decodeWord s.cfg w) t) := by
  rcases step_next.1 h with ⟨n, hirq, htake⟩ | ⟨hirq, w, hfetch, hexec⟩
  · obtain ⟨handler, -, rfl⟩ := takeException_next.1 htake
    exact .inl ⟨n, handler, hirq, rfl⟩
  · exact .inr ⟨hirq, w, hfetch, effect_of_exec hexec⟩

end Sys2Proof.Proofs
end

section
/-! The statements about every step, and about every instruction: what can change, and what cannot. Each is read off the
effect the instruction had, one field of State at a time. -/

namespace Sys2Proof.Proofs

open Sys2Proof.Machine Sys2Proof.Claims

/-! ### One field of State after an instruction -/

/-- No instruction writes a parameter (R6). -/
theorem cfg_of_effect {s t : State} {i : Instr} (h : Effect s i t) : t.cfg = s.cfg := by
  cases h <;> simp [State.ioReadTo]

/-- Only `str8` and `str16` write memory, and only in RAM (R58, R56). -/
theorem mem_of_effect {s t : State} {i : Instr} (h : Effect s i t) :
    t.mem = s.mem ∨
      (∃ rA rB rD a v, i = .str8 rA rB rD ∧ s.kindOf a = .ram ∧ t.mem = (s.storeByte a v).mem) ∨
      ∃ rA rB rD a u v, i = .str16 rA rB rD ∧ s.kindOf a = .ram ∧ s.kindOf (a + 1#16) = .ram ∧
        t.mem = ((s.storeByte a u).storeByte (a + 1#16) v).mem := by
  cases h with
  | storesByte rA rB rD a v hinstr ha hram => exact .inr (.inl ⟨rA, rB, rD, a, v, hinstr, hram, rfl⟩)
  | storesWord rA rB rD a u v hinstr ha heven hram hram' =>
    exact .inr (.inr ⟨rA, rB, rD, a, u, v, hinstr, hram, hram', rfl⟩)
  | _ => left; simp [State.ioReadTo]

/-- Only `seteur` writes EUR (R36). -/
theorem eur_of_effect {s t : State} {i : Instr} (h : Effect s i t) : t.eur = s.eur ∨ ∃ r, i = .seteur r := by
  cases h with
  | setsEur r v hinstr => exact .inr ⟨r, hinstr⟩
  | _ => left; simp [State.ioReadTo]

/-- Only `setvbr` writes VBR (R38). -/
theorem vbr_of_effect {s t : State} {i : Instr} (h : Effect s i t) : t.vbr = s.vbr ∨ ∃ r, i = .setvbr r := by
  cases h with
  | setsVbr r v hinstr => exact .inr ⟨r, hinstr⟩
  | _ => left; simp [State.ioReadTo]

/-- A general register that is no destination of the instruction is as before (R21, R10). -/
theorem gpr_of_effect {s t : State} {i : Instr} {k : Fin 14} (h : Effect s i t) (hk : .gpr k ∉ destinations i) :
    t.gpr k = s.gpr k := by
  cases h with
  | writes r v hdest | writesWithFlags r v c hdest | calls r target hdest | readsPort port r hdest
  | returns r hdest =>
    have : r ≠ .gpr k := ne_of_mem_of_not_mem (by simp [hdest]) hk
    simp [State.ioReadTo, this]
  | swaps rA rD v u hdest =>
    have hA : rA ≠ .gpr k := ne_of_mem_of_not_mem (by simp [hdest]) hk
    have hD : rD ≠ .gpr k := ne_of_mem_of_not_mem (by simp [hdest]) hk
    simp [hA, hD]
  | _ => simp

/-- A flag update leaves the enables and the unused bits of SR alone (R30). -/
theorem getLsbD_updateFlags_of_notFlag (c : Option Bool) (res sr : Word) {j : Nat} (hj : j < 2 ∨ 4 < j) :
    (updateFlags c res sr).getLsbD j = sr.getLsbD j := by
  rw [getLsbD_updateFlags, if_neg (by omega), if_neg (by omega), if_neg (by omega)]

/-- The enables and the unused bits of SR change only by a write to r15, exception entry or `reti` (R29, R30). -/
theorem getLsbD_sr_of_effect {s t : State} {i : Instr} {j : Nat} (h : Effect s i t) (hsr : .sr ∉ destinations i)
    (henter : entersException i = false) (hreti : isReti i = false) (hj : j < 2 ∨ 4 < j) :
    t.sr.getLsbD j = s.sr.getLsbD j := by
  cases h with
  | writes r v hdest | calls r target hdest | readsPort port r hdest =>
    have : r ≠ .sr := ne_of_mem_of_not_mem (by simp [hdest]) hsr
    simp [State.ioReadTo, this]
  | writesWithFlags r v c hdest =>
    have : r ≠ .sr := ne_of_mem_of_not_mem (by simp [hdest]) hsr
    rw [State.sr_finishWithFlags]
    cases s.cfg.srWriteOrder <;> simp [this, getLsbD_updateFlags_of_notFlag c v s.sr hj]
  | compares d b => exact getLsbD_updateFlags_of_notFlag (some b) d s.sr hj
  | swaps rA rD v u hdest =>
    have hA : rA ≠ .sr := ne_of_mem_of_not_mem (by simp [hdest]) hsr
    have hD : rD ≠ .sr := ne_of_mem_of_not_mem (by simp [hdest]) hsr
    simp [hA, hD]
  | returns r hdest hreti' => simp [hreti] at hreti'
  | enters number ret handler henter' => simp [henter] at henter'
  | _ => simp

/-- An instruction tells the environment at most one thing, and acknowledges no interrupt (R67, R221). -/
theorem events_of_effect {s t : State} {i : Instr} (h : Effect s i t) :
    ∃ es : List Event, t.events = s.events ++ es ∧ es.length ≤ 1 ∧ ∀ n, .irqAck n ∉ es := by
  cases h with
  | readsPort port r =>
    by_cases hp : s.absentPort port
    · exact ⟨[], by simp [State.ioReadTo, State.events_afterIoRead, hp], by simp, by simp⟩
    · exact ⟨[.ioRead port (s.answer port)], by simp [State.ioReadTo, State.events_afterIoRead, hp], by simp, by simp⟩
  | writesPort port v =>
    by_cases hp : s.absentPort port
    · exact ⟨[], by simp [State.events_ioWrite, hp], by simp, by simp⟩
    · exact ⟨[.ioWrite port v], by simp [State.events_ioWrite, hp], by simp, by simp⟩
  | _ => exact ⟨[], by simp, by simp, by simp⟩

/-- After a store the stale bytes are those before it and, of the stored one, the byte in the window (R65). -/
theorem mem_stale_storeByte (s : State) (a : Word) (v : Byte) (x : Word) :
    x ∈ (s.storeByte a v).stale ↔ x ∈ s.stale ∨ (x = a ∧ s.inWindow x = true) := by
  rw [State.stale_storeByte]
  by_cases hw : s.inWindow a = true <;> by_cases hx : x = a <;> simp [hw, hx]

/-- What an instruction does to the stale bytes when it goes on to A + 2: it keeps them all, and adds none outside the
window (R65). -/
structure KeepsStale (s t : State) : Prop where
  pc : t.pc = s.pc + 2#16
  kept : ∀ x ∈ s.stale, x ∈ t.stale
  added : ∀ x ∈ t.stale, x ∈ s.stale ∨ s.inWindow x = true

/-- An instruction that goes on to A + 2 and stores nothing keeps the stale bytes. -/
theorem KeepsStale.of_eq {s t : State} (hpc : t.pc = s.pc + 2#16) (hstale : t.stale = s.stale) : KeepsStale s t :=
  ⟨hpc, fun _ hx => hstale ▸ hx, fun _ hx => .inl (hstale ▸ hx)⟩

/-- A write of one destination: a control transfer where it is r14, and otherwise on to A + 2 (R26). -/
theorem stale_of_write {s t : State} {r : Reg} (hpc : r ≠ .pc → t.pc = s.pc + 2#16)
    (hstale : t.stale = if r = .pc then [] else s.stale) :
    ([r].contains .pc = true ∧ t.stale = []) ∨ ([r].contains .pc = false ∧ KeepsStale s t) := by
  by_cases hr : r = .pc
  · exact .inl ⟨by simp [hr], by simpa [hr] using hstale⟩
  · exact .inr ⟨by simpa using Ne.symm hr, .of_eq (hpc hr) (by simpa [hr] using hstale)⟩

/-- A control transfer leaves no byte stale; any other instruction goes on to A + 2 and keeps the stale bytes (R65). -/
theorem stale_of_effect {s t : State} {i : Instr} (h : Effect s i t) :
    (transfers i s = true ∧ t.stale = []) ∨ (transfers i s = false ∧ KeepsStale s t) := by
  cases h with
  | writes r v hdest ht =>
    rw [ht, hdest]; exact stale_of_write (fun hr => by simp [hr]) (by simp)
  | writesWithFlags r v c hdest ht =>
    rw [ht, hdest]; exact stale_of_write (fun hr => by simp [hr]) (by simp)
  | readsPort port r hdest ht =>
    rw [ht, hdest]; exact stale_of_write (fun hr => by simp [State.ioReadTo, hr]) (by simp [State.ioReadTo])
  | swaps rA rD v u hdest ht =>
    rw [ht, hdest]
    by_cases hA : rA = .pc
    · exact .inl ⟨by simp [hA], by simp [hA]⟩
    · by_cases hD : rD = .pc
      · exact .inl ⟨by simp [hD], by simp [hD]⟩
      · exact .inr ⟨by simp [Ne.symm hA, Ne.symm hD], .of_eq (by simp [hA, hD]) (by simp [hA, hD])⟩
  | branches off =>
    cases htaken : transfers i s with
    | true => exact .inl ⟨rfl, rfl⟩
    | false => exact .inr ⟨rfl, .of_eq rfl rfl⟩
  | calls r target hdest ht | returns r hdest hreti ht | enters number ret handler henter ht =>
    exact .inl ⟨ht, rfl⟩
  | compares d b ht | setsEpc v ht | setsEsr v ht | setsEnum v ht => exact .inr ⟨ht, .of_eq rfl rfl⟩
  | writesPort port v ht => exact .inr ⟨ht, .of_eq (by simp) (by simp)⟩
  | setsEur r v hinstr | setsVbr r v hinstr => subst hinstr; exact .inr ⟨rfl, .of_eq rfl rfl⟩
  | storesByte rA rB rD a v hinstr =>
    subst hinstr
    have hiff := mem_stale_storeByte s a v
    exact .inr ⟨rfl, rfl, fun x hx => (hiff x).2 (.inl hx), fun x hx => ((hiff x).1 hx).imp_right And.right⟩
  | storesWord rA rB rD a u v hinstr =>
    subst hinstr
    have hiff := mem_stale_storeByte s a u
    have hiff' := mem_stale_storeByte (s.storeByte a u) (a + 1#16) v
    refine .inr ⟨rfl, rfl, fun x hx => (hiff' x).2 (.inl ((hiff x).2 (.inl hx))), fun x hx => ?_⟩
    rcases (hiff' x).1 hx with hx | ⟨-, hw⟩
    · exact ((hiff x).1 hx).imp_right And.right
    · exact .inr hw

end Sys2Proof.Proofs
end

section
/-! The statements about every step (O13, O14, O17 to O22, O57): each is the effect of an interrupt's entry, or that of
the instruction fetched. -/

namespace Sys2Proof.Proofs

open Sys2Proof.Machine Sys2Proof.Claims

/-! ### The invariant -/

/-- Where neither byte at `pc` is stale, the stale bytes inside the window stay inside it when the machine goes on to
A + 2: they lie at least two bytes ahead (R65). -/
theorem staleAhead_advance {s : State} {x : Word} (hfresh : s.fetchIsStale = false) (hx : x ∈ s.stale)
    (hahead : (x - s.pc).toNat < s.cfg.pcAhead.bytes - 2) :
    (x - (s.pc + 2#16)).toNat < s.cfg.pcAhead.bytes - 2 := by
  obtain ⟨h0, h1⟩ : s.pc ∉ s.stale ∧ s.pc + 1#16 ∉ s.stale := by simpa [State.fetchIsStale] using hfresh
  have hne0 : x ≠ s.pc := ne_of_mem_of_not_mem hx h0
  have hne1 : x ≠ s.pc + 1#16 := ne_of_mem_of_not_mem hx h1
  generalize s.cfg.pcAhead.bytes = ahead at *
  bv_omega

/-- An instruction that completes keeps memory in canonical form (R50). -/
theorem memWf_of_effect {s t : State} {i : Instr} (h : Effect s i t) (hwf : Memory.wf s.mem = true) :
    Memory.wf t.mem = true := by
  rcases mem_of_effect h with hm | ⟨-, -, -, a, v, -, -, hm⟩ | ⟨-, -, -, a, u, v, -, -, -, hm⟩ <;> rw [hm]
  · exact hwf
  · exact wf_storeByte hwf a v
  · exact wf_storeByte (wf_storeByte hwf a u) (a + 1#16) v

/-- An instruction fetched where no byte is stale keeps the invariant. -/
theorem inv_of_effect {s t : State} {i : Instr} (h : Effect s i t) (hfresh : s.fetchIsStale = false) (hinv : s.Inv) :
    t.Inv := by
  refine ⟨memWf_of_effect h hinv.memWf, fun x hx => ?_⟩
  rcases stale_of_effect h with ⟨-, hnone⟩ | ⟨-, hkeeps⟩
  · simp [hnone] at hx
  · rw [hkeeps.pc, cfg_of_effect h]
    rcases hkeeps.added x hx with hold | hnew
    · exact staleAhead_advance hfresh hold (hinv.staleAhead x hold)
    · simpa [State.inWindow] using hnew

/-- Entering an exception keeps the invariant: no byte is written, and none is stale (R215). -/
theorem inv_enter {s : State} (hwf : Memory.wf s.mem = true) (number ret handler : Word) :
    (s.enter number ret handler).Inv := ⟨hwf, by simp⟩

/-- Settles O14: an interrupt's entry clears the stale list; an instruction was fetched where nothing was stale, so going
on by two bytes keeps the window. -/
theorem everyStepKeepsTheInvariant : Obligations.EveryStepKeepsTheInvariant := by
  intro s t hinv hstep
  rcases step_effect hstep with ⟨n, handler, -, rfl⟩ | ⟨-, w, hfetch, heffect⟩
  · exact inv_enter (s := s.passBoundary.tell (.irqAck n)) hinv.memWf _ _ _
  · obtain ⟨-, hfresh, -⟩ := fetchWord_ok.1 hfetch
    exact inv_of_effect heffect hfresh ⟨hinv.memWf, hinv.staleAhead⟩

/-- Settles O15: after reset nothing is written and nothing is stale. -/
theorem resetMeetsTheInvariant : Obligations.ResetMeetsTheInvariant := by
  have hreset (cfg : Config) : (State.resetWith cfg).Inv := ⟨Memory.wf_nil, by simp⟩
  exact ⟨hreset defaultConfig, hreset⟩

/-! ### Interrupts -/

/-- Interrupt 0 is accepted exactly where it is requested and enabled and the other is not or gives way (R220, R223). -/
theorem acceptedIrq_int0_iff {s : State} :
    s.acceptedIrq = some .int0 ↔ s.irqLines.irq0 = true ∧ enable0 s.sr = true ∧
      (s.cfg.irqPriority = .int0First ∨ s.irqLines.irq1 = false ∨ enable1 s.sr = false) := by
  unfold State.acceptedIrq
  generalize s.irqLines.irq0 = request0, enable0 s.sr = enabled0, s.irqLines.irq1 = request1, enable1 s.sr = enabled1
  cases s.cfg.irqPriority with
  | int0First => cases request0 <;> cases enabled0 <;> simp
  | int1First => cases request0 <;> cases enabled0 <;> cases request1 <;> simp

/-- Interrupt 1 is accepted exactly where it is requested and enabled and the other is not or gives way (R220, R223). -/
theorem acceptedIrq_int1_iff {s : State} :
    s.acceptedIrq = some .int1 ↔ s.irqLines.irq1 = true ∧ enable1 s.sr = true ∧
      (s.cfg.irqPriority = .int1First ∨ s.irqLines.irq0 = false ∨ enable0 s.sr = false) := by
  unfold State.acceptedIrq
  generalize s.irqLines.irq0 = request0, enable0 s.sr = enabled0, s.irqLines.irq1 = request1, enable1 s.sr = enabled1
  cases s.cfg.irqPriority with
  | int0First => cases request1 <;> cases enabled1 <;> cases request0 <;> simp
  | int1First => cases request1 <;> cases enabled1 <;> simp

/-- A line is raised only where the environment has lined up the boundary's lines (R221). -/
theorem irqIn_of_irqLines {s : State} (h : s.irqLines.irq0 = true ∨ s.irqLines.irq1 = true) :
    ∃ rest, s.irqIn = s.irqLines :: rest := by
  unfold State.irqLines at *
  cases hin : s.irqIn with
  | nil => simp [hin] at h
  | cons l rest => exact ⟨rest, by simp⟩

/-- Settles O13: no instruction acknowledges an interrupt, so the acknowledgement is the accepted one's, and acceptance
asks for the request and the enable. -/
theorem onlyRequestedEnabledInterruptsAreTaken : Obligations.OnlyRequestedEnabledInterruptsAreTaken := by
  intro s t n es hstep hes hn
  rcases step_effect hstep with ⟨m, handler, hirq, rfl⟩ | ⟨-, w, -, heffect⟩
  · obtain rfl : es = [.irqAck m] := by simpa using hes.symm
    obtain rfl : n = m := by simpa using hn
    cases n with
    | int0 =>
      obtain ⟨hrequest, henable, -⟩ := acceptedIrq_int0_iff.1 hirq
      obtain ⟨rest, hin⟩ := irqIn_of_irqLines (.inl hrequest)
      exact ⟨_, rest, hin, hrequest, henable⟩
    | int1 =>
      obtain ⟨hrequest, henable, -⟩ := acceptedIrq_int1_iff.1 hirq
      obtain ⟨rest, hin⟩ := irqIn_of_irqLines (.inr hrequest)
      exact ⟨_, rest, hin, hrequest, henable⟩
  · obtain ⟨es', hes', -, hno⟩ := events_of_effect heffect
    obtain rfl : es = es' := List.append_cancel_left (hes.symm.trans hes')
    exact absurd hn (hno n)

/-- Settles O22: an interrupt's entry records its acknowledgement, an instruction at most one IO transfer. -/
theorem eventsAreRecordedInProgramOrder : Obligations.EventsAreRecordedInProgramOrder := by
  intro s t hstep
  rcases step_effect hstep with ⟨n, handler, -, rfl⟩ | ⟨-, w, -, heffect⟩
  · exact ⟨[.irqAck n], rfl, le_rfl⟩
  · obtain ⟨es, hes, hlen, -⟩ := events_of_effect heffect
    exact ⟨es, hes, hlen⟩

/-! ### Frames -/

/-- An instruction leaves every byte outside RAM as it was (R56). -/
theorem read_mem_of_effect {s t : State} {i : Instr} (h : Effect s i t) (hwf : Memory.wf s.mem = true) {a : Word}
    (ha : s.kindOf a ≠ .ram) : Memory.read t.mem a.toNat = Memory.read s.mem a.toNat := by
  have ne_of_ram {b : Word} (hb : s.kindOf b = .ram) : a ≠ b := fun e => ha (e ▸ hb)
  rcases mem_of_effect h with hm | ⟨-, -, -, b, v, -, hb, hm⟩ | ⟨-, -, -, b, u, v, -, hb, hb', hm⟩ <;> rw [hm]
  · rw [read_storeByte hwf, if_neg (ne_of_ram hb)]
  · rw [read_storeByte (wf_storeByte hwf b u), if_neg (ne_of_ram hb'), read_storeByte hwf, if_neg (ne_of_ram hb)]

/-- Settles O17: an interrupt's entry writes no memory and no parameter, and a store is admitted in RAM alone. -/
theorem stepsLeaveRomAndParametersAlone : Obligations.StepsLeaveRomAndParametersAlone := by
  intro s t hinv hstep
  rcases step_effect hstep with ⟨n, handler, -, rfl⟩ | ⟨-, w, -, heffect⟩
  · exact ⟨rfl, fun _ _ => rfl⟩
  · exact ⟨(cfg_of_effect heffect :), fun a ha => read_mem_of_effect heffect hinv.memWf ha⟩

/-- Settles O18: only the two stores leave memory other than it was. -/
theorem onlyStoresChangeMemory : Obligations.OnlyStoresChangeMemory := by
  intro s t a hstep hchanged
  rcases step_effect hstep with ⟨n, handler, -, rfl⟩ | ⟨hirq, w, hfetch, heffect⟩
  · exact absurd rfl hchanged
  · rcases mem_of_effect heffect with hm | ⟨rA, rB, rD, -, -, hi, -⟩ | ⟨rA, rB, rD, -, -, -, hi, -⟩
    · exact absurd (by rw [hm]; rfl) hchanged
    · exact ⟨hirq, w, rA, rB, rD, hfetch, .inl hi⟩
    · exact ⟨hirq, w, rA, rB, rD, hfetch, .inr hi⟩

/-- Settles O19: of all effects, one changes EUR and one VBR. -/
theorem eurAndVbrChangeOnlyByTheirSetInstructions : Obligations.EurAndVbrChangeOnlyByTheirSetInstructions := by
  intro s t hstep
  rcases step_effect hstep with ⟨n, handler, -, rfl⟩ | ⟨hirq, w, hfetch, heffect⟩
  · exact ⟨absurd rfl, absurd rfl⟩
  · refine ⟨fun heur => ?_, fun hvbr => ?_⟩
    · obtain ⟨r, hi⟩ := (eur_of_effect heffect).resolve_left heur
      exact ⟨hirq, w, r, hfetch, hi⟩
    · obtain ⟨r, hi⟩ := (vbr_of_effect heffect).resolve_left hvbr
      exact ⟨hirq, w, r, hfetch, hi⟩

/-- Settles O20: of the effects without r15 as a destination, entry and return, those that write SR update flags. -/
theorem enablesChangeOnlyBySrWritesEntryAndReturn : Obligations.EnablesChangeOnlyBySrWritesEntryAndReturn :=
  fun _ _ _ hexec hsr henter hreti _ hj => getLsbD_sr_of_effect (effect_of_exec hexec) hsr henter hreti hj

/-- Settles O21: an interrupt's entry writes no general register, an instruction only its destinations. -/
theorem generalRegistersChangeOnlyAsDestinations : Obligations.GeneralRegistersChangeOnlyAsDestinations := by
  intro s t k hstep hchanged
  rcases step_effect hstep with ⟨n, handler, -, rfl⟩ | ⟨hirq, w, hfetch, heffect⟩
  · exact absurd rfl hchanged
  · exact ⟨hirq, w, hfetch, by_contra fun hk => hchanged (gpr_of_effect heffect hk :)⟩

/-- Settles O57: an interrupt's entry is a control transfer, and an instruction that is none keeps the stale bytes and
adds only bytes its store put in the window. -/
theorem staleBytesLastUntilAControlTransfer : Obligations.StaleBytesLastUntilAControlTransfer := by
  intro s t hstep
  rcases step_effect hstep with ⟨n, handler, hirq, rfl⟩ | ⟨hirq, w, hfetch, heffect⟩
  · exact ⟨fun _ => rfl, fun hnone => by simp [hirq] at hnone⟩
  · refine ⟨absurd hirq, fun _ => ⟨w, hfetch, ?_⟩⟩
    have hsame : transfers (decodeWord s.cfg w) s.passBoundary = transfers (decodeWord s.cfg w) s := rfl
    rcases stale_of_effect heffect with ⟨htrue, hnone⟩ | ⟨hfalse, hkeeps⟩
    · rw [hsame] at htrue
      exact ⟨fun _ => hnone, fun hfalse => by simp [htrue] at hfalse⟩
    · rw [hsame] at hfalse
      refine ⟨fun htrue => by simp [hfalse] at htrue, fun _ => ⟨hkeeps.kept, fun x hx => ?_⟩⟩
      exact (hkeeps.added x hx).imp_right inFetchWindow_iff.2

end Sys2Proof.Proofs
end

section
/-! The statements about memory accesses, and about the instructions that load and store (spec/20_memory.md,
spec/41_load_store.md). -/

namespace Sys2Proof.Proofs

open Sys2Proof.Machine Sys2Proof.Claims

/-! ### Where an access has no meaning -/

/-- A word read at an odd address is the misaligned fault (R55). -/
theorem memRead16_odd {s : State} {a : Word} (h : a.toNat % 2 = 1) :
    memRead16 s a = .error (.misalignedRead a) := by
  simp [memRead16, misaligned_eq, h]

/-- A word write at an odd address is the misaligned fault (R55). -/
theorem memWrite16_odd {s : State} {a w : Word} (h : a.toNat % 2 = 1) :
    memWrite16 s a w = .error (.misalignedWrite a) := by
  simp [memWrite16, misaligned_eq, h]

/-- An even address is not misaligned. -/
theorem misaligned_of_even {a : Word} (h : a.toNat % 2 = 0) : misaligned a = false := by
  simp [misaligned_eq, h]

/-- A byte that cannot be read faults with its reason (R51, R56). -/
theorem memRead8_error {s : State} {a : Word} {f : Fault} (h : ByteReadFails s a f) : memRead8 s a = .error f := by
  unfold memRead8
  rcases h with ⟨hkind, rfl⟩ | ⟨hkind, hnone, rfl⟩
  · rw [hkind]
  · rw [hnone]
    cases hk : s.kindOf a with
    | unmapped => exact absurd hk hkind
    | rom | ram => rfl

/-- A readable byte is read. -/
theorem memRead8_of_readable {s : State} {a : Word} (h : ByteReadable s a) : ∃ v, memRead8 s a = .ok v := by
  obtain ⟨hkind, v, hv⟩ := h
  exact ⟨v, memRead8_ok.2 ⟨hkind, hv⟩⟩

/-- A word one of whose bytes cannot be read faults with the first such byte's reason (R52, R56). -/
theorem memRead16_error {s : State} {a : Word} {f : Fault} (heven : a.toNat % 2 = 0) (h : WordReadFails s a f) :
    memRead16 s a = .error f := by
  unfold memRead16
  rw [misaligned_of_even heven]
  rcases h with hlower | ⟨hlower, hupper⟩
  · simp [memRead8_error hlower]
  · obtain ⟨v, hv⟩ := memRead8_of_readable hlower
    simp [hv, memRead8_error hupper]

/-- A byte that cannot be written has its reason for a fault (R56). -/
theorem writeFault_some {s : State} {a : Word} {f : Fault} (h : ByteWriteFails s a f) : writeFault s a = some f := by
  unfold writeFault
  rcases h with ⟨hkind, rfl⟩ | ⟨hkind, rfl⟩ <;> rw [hkind]

/-- A write of a byte that cannot be written faults with its reason (R53, R56). -/
theorem memWrite8_error {s : State} {a : Word} {v : Byte} {f : Fault} (h : ByteWriteFails s a f) :
    memWrite8 s a v = .error f := by
  simp [memWrite8, writeFault_some h]

/-- A write of a word one of whose bytes cannot be written faults with the first such byte's reason (R54, R56). -/
theorem memWrite16_error {s : State} {a w : Word} {f : Fault} (heven : a.toNat % 2 = 0) (h : WordWriteFails s a f) :
    memWrite16 s a w = .error f := by
  unfold memWrite16
  rw [misaligned_of_even heven]
  rcases h with hlower | ⟨hram, hupper⟩
  · simp [writeFault_some hlower]
  · simp [writeFault_none.2 hram, writeFault_some hupper]

/-- Settles O8: one lemma per access and way to fail. -/
theorem accessesTheMapDoesNotAdmitFault : Obligations.AccessesTheMapDoesNotAdmitFault :=
  fun _ _ _ _ _ =>
    ⟨fun hodd => ⟨memRead16_odd hodd, memWrite16_odd hodd⟩, memRead8_error, memWrite8_error,
      fun heven => ⟨memRead16_error heven, memWrite16_error heven⟩⟩

/-! ### Reading back a word that was stored -/

/-- Both bytes of a word in RAM after it has been stored there, as bytes in the byte order (R54). -/
theorem memRead8_storeWord {s : State} (hwf : Memory.wf s.mem = true) {a : Word} (u v : Byte)
    (hram : s.kindOf a = .ram) (hram' : s.kindOf (a + 1#16) = .ram) :
    memRead8 ((s.storeByte a u).storeByte (a + 1#16) v) a = .ok u ∧
      memRead8 ((s.storeByte a u).storeByte (a + 1#16) v) (a + 1#16) = .ok v := by
  have hne : (a + 1#16).toNat ≠ a.toNat := by bv_omega
  have hkind (b : Word) : ((s.storeByte a u).storeByte (a + 1#16) v).kindOf b = s.kindOf b := rfl
  refine ⟨memRead8_ok.2 ⟨by simp [hkind, hram], ?_⟩, memRead8_ok.2 ⟨by simp [hkind, hram'], ?_⟩⟩
  · rw [read_storeWord hwf, if_pos rfl]
  · rw [read_storeWord hwf, if_neg hne, if_pos rfl]

/-- A word stored in RAM at an even address is read back whole (R52, R54). -/
theorem memRead16_storeWord {s : State} (hwf : Memory.wf s.mem = true) {a : Word} (w : Word)
    (heven : misaligned a = false) (hram : s.kindOf a = .ram) (hram' : s.kindOf (a + 1#16) = .ram) :
    memRead16 ((s.storeByte a (lowerByte s.cfg.byteOrder w)).storeByte (a + 1#16) (upperByte s.cfg.byteOrder w)) a =
      .ok w := by
  obtain ⟨hlower, hupper⟩ := memRead8_storeWord hwf _ _ hram hram'
  exact memRead16_ok.2 ⟨heven, _, _, hlower, hupper, (joinBytes_split s.cfg.byteOrder w).symm⟩

/-- Settles O7: the state after the write is the one with both bytes stored, which are the halves of the word that the
byte order puts there. -/
theorem wordStoreThenReadsFollowTheByteOrder : Obligations.WordStoreThenReadsFollowTheByteOrder := by
  intro s a w hwf heven hram hram'
  obtain ⟨hlower, hupper⟩ := memRead8_storeWord hwf _ _ hram hram'
  have haligned := misaligned_of_even heven
  refine ⟨_, memWrite16_ok.2 ⟨haligned, hram, hram', rfl⟩, memRead16_storeWord hwf w haligned hram hram',
    ⟨_, _, hlower, hupper, ?bytes⟩, fun b hb hb' => ?others⟩
  case bytes =>
    rw [lowerByte_toNat, upperByte_toNat]
    cases s.cfg.byteOrder <;> exact ⟨rfl, rfl⟩
  case others =>
    rw [read_storeWord hwf, if_neg (mt BitVec.eq_of_toNat_eq hb), if_neg (mt BitVec.eq_of_toNat_eq hb')]

/-! ### Loads and stores -/

/-- The effective address is the sum of its registers modulo 2^16 (R120). -/
theorem effectiveAddress_toNat (s : State) (rA rB : Reg) :
    (s.effectiveAddress rA rB).toNat = ((s.read rA).toNat + (s.read rB).toNat) % 65536 := by
  simp [State.effectiveAddress]

/-- An access that has a meaning goes on with its value. -/
theorem orFault_ok {α : Type} {access : Except Fault α} {v : α} (go : α → State) (h : access = .ok v) :
    orFault access go = .next (go v) := by rw [h]; rfl

/-- An access that has none stops with its fault. -/
theorem orFault_error {α : Type} {access : Except Fault α} {f : Fault} (go : α → State) (h : access = .error f) :
    orFault access go = .fault f := by rw [h]; rfl

/-- `ld8` writes the extended byte it reads to rD and nothing else (R121). -/
theorem yields_ld8 {rA rB rD : Reg} {s : State} {b : Byte} (h : memRead8 s (s.effectiveAddress rA rB) = .ok b) :
    Yields (.ld8 rA rB rD) s rD (extendByte s.cfg.ld8Extend b (s.read rD)) :=
  yields_of_finish (orFault_ok _ h)

/-- `ld16` writes the word it reads to rD and nothing else (R122). -/
theorem yields_ld16 {rA rB rD : Reg} {s : State} {w : Word} (h : memRead16 s (s.effectiveAddress rA rB) = .ok w) :
    Yields (.ld16 rA rB rD) s rD w :=
  yields_of_finish (orFault_ok _ h)

/-- A byte put above another is 256 times its number (R52). -/
theorem toNat_append_bytes (u v : Byte) : (u ++ v : Word).toNat = u.toNat * 256 + v.toNat :=
  joinBytes_toNat .big u v

/-- Bits 15:8 of a word as a number. -/
theorem highByte_toNat (w : Word) : (highByte w).toNat = w.toNat / 256 := lowerByte_toNat .big w

/-- Bits 7:0 of a word as a number. -/
theorem lowByte_toNat (w : Word) : (lowByte w).toNat = w.toNat % 256 := upperByte_toNat .big w

/-- Settles O26: the byte or word at the effective address is what the read answers; the extended byte is each reading's
number. -/
theorem loadsBringTheAddressedDataToRd : Obligations.LoadsBringTheAddressedDataToRd := by
  intro rA rB rD s a ha
  obtain rfl : a = s.effectiveAddress rA rB :=
    BitVec.eq_of_toNat_eq (ha.trans (effectiveAddress_toNat s rA rB).symm)
  refine ⟨fun b hmapped hb => ⟨_, yields_ld8 (memRead8_ok.2 ⟨hmapped, hb⟩), ?_⟩, fun w hw =>
    yields_ld16 (wordAt_iff.1 hw)⟩
  have hlt := b.isLt
  cases s.cfg.ld8Extend with
  | zero => simp [extendByte]; omega
  | sign => exact BitVec.toInt_signExtend_of_le (by decide)
  | keep => simp [extendByte, toNat_append_bytes, highByte_toNat]

/-- `str8` to RAM stores its byte and goes on (R123). -/
theorem exec_str8 {rA rB rD : Reg} {s : State} (hram : s.kindOf (s.effectiveAddress rA rB) = .ram) :
    exec (.str8 rA rB rD) s = .next (s.storeByte (s.effectiveAddress rA rB) (lowByte (s.read rD))).advance :=
  orFault_ok _ (memWrite8_ok.2 ⟨hram, rfl⟩)

/-- `str16` to RAM at an even address stores its two bytes and goes on (R124). -/
theorem exec_str16 {rA rB rD : Reg} {s : State} (heven : misaligned (s.effectiveAddress rA rB) = false)
    (hram : s.kindOf (s.effectiveAddress rA rB) = .ram) (hram' : s.kindOf (s.effectiveAddress rA rB + 1#16) = .ram) :
    exec (.str16 rA rB rD) s =
      .next ((s.storeByte (s.effectiveAddress rA rB) (lowerByte s.cfg.byteOrder (s.read rD))).storeByte
        (s.effectiveAddress rA rB + 1#16) (upperByte s.cfg.byteOrder (s.read rD))).advance :=
  orFault_ok _ (memWrite16_ok.2 ⟨heven, hram, hram', rfl⟩)

/-- After one byte has been stored it is stale where it is in the window (R65). -/
theorem storesStale_storeByte (s : State) (a : Word) (v : Byte) :
    StoresStale s (s.storeByte a v).advance [a] := by
  intro x
  rw [inFetchWindow_iff, List.mem_singleton]
  exact mem_stale_storeByte s a v x

/-- After two bytes have been stored each is stale where it is in the window (R65). -/
theorem storesStale_storeWord (s : State) (a : Word) (u v : Byte) :
    StoresStale s ((s.storeByte a u).storeByte (a + 1#16) v).advance [a, a + 1#16] := by
  intro x
  have hupper : x ∈ ((s.storeByte a u).storeByte (a + 1#16) v).stale ↔
      x ∈ (s.storeByte a u).stale ∨ (x = a + 1#16 ∧ s.inWindow x = true) := mem_stale_storeByte _ _ v x
  rw [State.stale_advance, hupper, mem_stale_storeByte, inFetchWindow_iff, List.mem_pair]
  tauto

/-- Settles O27: the store is admitted, and the state after it is that with the bytes stored and `pc` two further on. -/
theorem storesWriteTheAddressedBytesAlone : Obligations.StoresWriteTheAddressedBytesAlone := by
  rintro rA rB rD s _ hinv rfl
  refine ⟨effectiveAddress_toNat s rA rB, fun hram => ?byte, fun heven hram hram' => ?word⟩
  case byte =>
    refine ⟨_, exec_str8 hram, ⟨lowByte (s.read rD), ?_, lowByte_toNat _⟩, fun x hx => ?_, storesStale_storeByte _ _ _,
      fun _ => rfl, rfl, rfl, ⟨rfl, rfl, rfl, rfl, rfl⟩, ⟨rfl, rfl, rfl, rfl, rfl⟩⟩
    · simp [Memory.read_write _ hinv.memWf]
    · simp [Memory.read_write _ hinv.memWf, Ne.symm hx]
  case word =>
    have haligned := misaligned_of_even heven
    refine ⟨_, exec_str16 haligned hram hram', ?_, fun x hx hx' => ?_, storesStale_storeWord _ _ _ _,
      fun _ => rfl, rfl, rfl, ⟨rfl, rfl, rfl, rfl, rfl⟩, ⟨rfl, rfl, rfl, rfl, rfl⟩⟩
    · exact wordAt_iff.2 (memRead16_storeWord hinv.memWf (s.read rD) haligned hram hram')
    · rw [State.mem_advance, read_storeWord hinv.memWf, if_neg hx, if_neg hx']

/-- Settles O28: each instruction stops with the fault of its access. -/
theorem loadsAndStoresFaultWhereTheAccessHasNoMeaning : Obligations.LoadsAndStoresFaultWhereTheAccessHasNoMeaning := by
  rintro rA rB rD s _ f rfl
  exact ⟨fun hodd => ⟨orFault_error _ (memRead16_odd hodd), orFault_error _ (memWrite16_odd hodd)⟩,
    fun h => orFault_error _ (memRead8_error h), fun h => orFault_error _ (memWrite8_error h),
    fun heven h => orFault_error _ (memRead16_error heven h), fun heven h => orFault_error _ (memWrite16_error heven h)⟩

end Sys2Proof.Proofs
end

section
/-! The statements about registers and about instruction boundaries (spec/10_state.md, spec/60_exceptions.md sections 2
and 3): naming a register, reset, the fetch, the entry of an interrupt and the end of a run. -/

namespace Sys2Proof.Proofs

open Sys2Proof.Machine Sys2Proof.Claims

/-! ### Naming a register -/

/-- Naming a register just written, other than r14, yields what was written (R21, R25). -/
theorem read_write_same {r : Reg} (s : State) (v : Word) (hr : r ≠ .pc) : (s.write r v).read r = v := by
  cases r with
  | gpr i => simp [State.read]
  | pc => exact absurd rfl hr
  | sr => rfl

/-- Naming a register other than the one written yields what it did before; r14 reads A + `PC_AHEAD`, which only a write
of r14 moves (R21, R23, R25). -/
theorem read_write_other {r q : Reg} (s : State) (v : Word) (hq : q ≠ r) : (s.write r v).read q = s.read q := by
  cases q with
  | gpr j => simp [State.read, hq.symm]
  | pc => simp [State.read, State.pcRead, hq.symm]
  | sr => simp [State.read, hq.symm]

/-- Settles O9: what naming each form of register yields, at rest and after a write. -/
theorem namingARegisterReadsItsValue : Obligations.NamingARegisterReadsItsValue := by
  refine ⟨fun s => ⟨fun _ => rfl, rfl, ?_⟩, fun s r q v hr => ⟨read_write_same s v hr, read_write_other s v⟩,
    fun s q v => ⟨rfl, read_write_other s v⟩, rfl⟩
  simp [State.read, State.pcRead]

/-- Settles O16: with both enables clear there is nothing to accept, whatever is requested. -/
theorem resetGivesPcAndSrAndNothingWritten : Obligations.ResetGivesPcAndSrAndNothingWritten := by
  refine ⟨fun cfg => ⟨rfl, rfl, rfl, rfl, rfl, rfl, fun _ => rfl, fun h0 h1 ls => ?_⟩, rfl, rfl, rfl⟩
  cases hirq : State.acceptedIrq { State.resetWith cfg with irqIn := ls } with
  | none => rfl
  | some n =>
    cases n with
    | int0 =>
      obtain ⟨-, henable, -⟩ := acceptedIrq_int0_iff.1 hirq
      exact absurd henable (by simpa [enable0] using h0)
    | int1 =>
      obtain ⟨-, henable, -⟩ := acceptedIrq_int1_iff.1 hirq
      exact absurd henable (by simpa [enable1] using h1)

/-! ### The fetch -/

/-- A step with no interrupt accepted executes the word it fetches, the boundary passed (R57). -/
theorem step_of_fetchWord_ok {s : State} {w : Word} (hirq : s.acceptedIrq = none) (h : fetchWord s = .ok w) :
    step s = exec (decodeWord s.cfg w) s.passBoundary := by
  simp [step, hirq, h]

/-- A step with no interrupt accepted stops with the fetch's fault. -/
theorem step_of_fetchWord_error {s : State} {f : Fault} (hirq : s.acceptedIrq = none) (h : fetchWord s = .error f) :
    step s = .fault f := by
  simp [step, hirq, h]

/-- The fetch is stale where one of the bytes at `pc` is (R65). -/
theorem fetchIsStale_iff {s : State} : s.fetchIsStale = true ↔ s.pc ∈ s.stale ∨ s.pc + 1#16 ∈ s.stale := by
  simp [State.fetchIsStale]

/-- The fetch at an odd `pc` has no meaning (R27). -/
theorem fetchWord_odd {s : State} (h : s.pc.toNat % 2 = 1) : fetchWord s = .error (.misalignedFetch s.pc) := by
  simp [fetchWord, misaligned_eq, h]

/-- The fetch of a stale byte has no meaning (R65). -/
theorem fetchWord_stale {s : State} (heven : s.pc.toNat % 2 = 0) (h : s.pc ∈ s.stale ∨ s.pc + 1#16 ∈ s.stale) :
    fetchWord s = .error (.staleFetch s.pc) := by
  simp [fetchWord, misaligned_of_even heven, fetchIsStale_iff.2 h]

/-- Where nothing at an even `pc` is stale the fetch is a word read (R57). -/
theorem fetchWord_eq_memRead16 {s : State} (heven : s.pc.toNat % 2 = 0) (h0 : s.pc ∉ s.stale)
    (h1 : s.pc + 1#16 ∉ s.stale) : fetchWord s = memRead16 s s.pc := by
  have hfresh : s.fetchIsStale = false := by simp [State.fetchIsStale, h0, h1]
  simp [fetchWord, misaligned_of_even heven, hfresh]

/-- Settles O10: the two bytes make the word the fetch reads, and it decodes as they do. -/
theorem stepRunsTheDecodedInstruction : Obligations.StepRunsTheDecodedInstruction := by
  intro s lower upper i hirq heven h0 h1 hlower hupper hdecode
  have hfetch : fetchWord s = .ok (joinBytes s.cfg.byteOrder lower upper) := by
    rw [fetchWord_eq_memRead16 heven h0 h1]
    exact memRead16_ok.2 ⟨misaligned_of_even heven, lower, upper, hlower, hupper, rfl⟩
  obtain rfl : decodeWord s.cfg (joinBytes s.cfg.byteOrder lower upper) = i := by simpa [decode] using hdecode
  exact step_of_fetchWord_ok hirq hfetch

/-- A store that completes makes stale each byte it stores in the window, and goes on to A + 2 (R65). -/
theorem mem_stale_of_store {s t : State} {rA rB rD : Reg} {x : Word} (hwindow : InFetchWindow s x)
    (h : (exec (.str8 rA rB rD) s = .next t ∧ x = s.effectiveAddress rA rB) ∨
      (exec (.str16 rA rB rD) s = .next t ∧
        (x = s.effectiveAddress rA rB ∨ x = s.effectiveAddress rA rB + 1#16))) :
    x ∈ t.stale ∧ t.pc = s.pc + 2#16 := by
  rcases h with ⟨hexec, hx⟩ | ⟨hexec, hx⟩
  · obtain ⟨_, hwrite, rfl⟩ := orFault_next.1 hexec
    obtain ⟨-, rfl⟩ := memWrite8_ok.1 hwrite
    exact ⟨(storesStale_storeByte _ _ _ x).2 (.inr ⟨by simp [hx], hwindow⟩), rfl⟩
  · obtain ⟨_, hwrite, rfl⟩ := orFault_next.1 hexec
    obtain ⟨-, -, -, rfl⟩ := memWrite16_ok.1 hwrite
    exact ⟨(storesStale_storeWord _ _ _ _ x).2 (.inr ⟨by simpa using hx, hwindow⟩), rfl⟩

/-- Settles O11: each way the fetch has no meaning is the step's fault; after a store into the next word that word's
fetch is stale. -/
theorem fetchWithoutMeaningFaults : Obligations.FetchWithoutMeaningFaults := by
  refine ⟨fun s f hirq => ⟨fun hodd => ?odd, fun heven hstale => ?stale, fun heven h0 h1 hfails => ?unreadable⟩,
    fun s t rA rB rD x hwindow hstore => ?store⟩
  case odd => exact step_of_fetchWord_error hirq (fetchWord_odd hodd)
  case stale => exact step_of_fetchWord_error hirq (fetchWord_stale heven hstale)
  case unreadable =>
    refine step_of_fetchWord_error hirq ?_
    rw [fetchWord_eq_memRead16 heven h0 h1, memRead16_error heven hfails]
  case store =>
    obtain ⟨hstale, hpc⟩ := mem_stale_of_store hwindow hstore
    refine ⟨hstale, fun heven hirq hx => ?_⟩
    have heven' : t.pc.toNat % 2 = 0 := by rw [hpc]; bv_omega
    have hnext : t.pc ∈ t.stale ∨ t.pc + 1#16 ∈ t.stale := by
      rw [hpc, show s.pc + 2#16 + 1#16 = s.pc + 3#16 by bv_omega]
      rcases hx with rfl | rfl
      · exact .inl hstale
      · exact .inr hstale
    rw [← hpc]
    exact step_of_fetchWord_error hirq (fetchWord_stale heven' hnext)

/-! ### The entry of an interrupt -/

/-- Where an interrupt is accepted and its handler can be found, the step enters it and tells the environment (R215,
R221, R222). -/
theorem step_of_acceptedIrq {s : State} {n : Irq} {handler : Word} (hirq : s.acceptedIrq = some n)
    (hhandler : HandlerAt s (s.irqNumber n) handler) :
    step s = .next ((s.passBoundary.tell (.irqAck n)).enter (s.irqNumber n) s.pc handler) :=
  step_next.2 (.inl ⟨n, hirq, takeException_next.2 ⟨handler, handlerAt_iff.1 hhandler, rfl⟩⟩)

/-- The state after the entry of an interrupt, in the terms of the statements (R215, R221). -/
theorem step_enters_interrupt {s : State} {n : Irq} {handler : Word} {l : IrqLines} {rest : List IrqLines}
    (hin : s.irqIn = l :: rest) (hirq : s.acceptedIrq = some n) (hhandler : HandlerAt s (s.irqNumber n) handler) :
    ∃ t, step s = .next t ∧ Entered s t (s.irqNumber n) s.pc handler ∧ t.irqIn = rest ∧ t.ioIn = s.ioIn ∧
      t.events = s.events ++ [.irqAck n] ∧ t.draws = s.draws ∧ t.cfg = s.cfg :=
  ⟨_, step_of_acceptedIrq hirq hhandler, entered_enter (s.passBoundary.tell (.irqAck n)) _ _ _, by simp [hin], rfl, rfl,
    rfl, rfl⟩

/-- Settles O12: each clause's premises are those under which its interrupt is accepted. -/
theorem requestedEnabledInterruptIsEntered : Obligations.RequestedEnabledInterruptIsEntered := by
  intro s l rest handler hin
  have hlines : s.irqLines = l := by simp [State.irqLines, hin]
  refine ⟨fun hrequest henable hpriority hhandler => ?int0, fun hrequest henable hpriority hhandler => ?int1⟩
  case int0 =>
    have hirq : s.acceptedIrq = some .int0 :=
      acceptedIrq_int0_iff.2 (by rw [hlines]; exact ⟨hrequest, henable, hpriority⟩)
    exact step_enters_interrupt hin hirq hhandler
  case int1 =>
    have hirq : s.acceptedIrq = some .int1 :=
      acceptedIrq_int1_iff.2 (by rw [hlines]; exact ⟨hrequest, henable, hpriority⟩)
    exact step_enters_interrupt hin hirq hhandler

/-! ### The end of a run -/

/-- A run has ended where no interrupt is accepted and the word fetched is the branch to itself (R257). -/
theorem runEnded_iff {s : State} :
    s.runEnded = true ↔ s.acceptedIrq = none ∧ ∃ w, fetchWord s = .ok w ∧
      decodeWord s.cfg w = .bra (selfOffset s.cfg.pcAhead) := by
  unfold State.runEnded
  cases hfetch : fetchWord s <;> simp

/-- A branch by the self offset goes to its own address (R150, R257). -/
theorem branchTarget_selfOffset (s : State) : s.branchTarget (selfOffset s.cfg.pcAhead) = s.pc := by
  unfold State.branchTarget State.pcRead
  cases s.cfg.pcAhead <;> simp [selfOffset, PcAhead.bytes, immWord] <;> bv_omega

/-- Settles O56: the step is the taken branch to `pc` itself, the boundary passed. -/
theorem endedRunsStayWhereTheyAre : Obligations.EndedRunsStayWhereTheyAre := by
  intro s hended
  obtain ⟨hirq, w, hfetch, hdecode⟩ := runEnded_iff.1 hended
  have hself : (s.passBoundary.branchTarget (selfOffset s.cfg.pcAhead)) = s.pc := branchTarget_selfOffset s
  refine ⟨s.passBoundary.jump (s.passBoundary.branchTarget (selfOffset s.cfg.pcAhead)), ?_, fun _ => rfl, hself, rfl,
    rfl, ⟨rfl, rfl, rfl, rfl, rfl⟩, fun _ => rfl, rfl, rfl, rfl, rfl, rfl⟩
  rw [step_of_fetchWord_ok hirq hfetch, hdecode]
  rfl

end Sys2Proof.Proofs
end

section
/-! The statements about exceptions and the exception registers (spec/60_exceptions.md,
spec/47_exception_instructions.md). -/

namespace Sys2Proof.Proofs

open Sys2Proof.Machine Sys2Proof.Claims

/-! ### Entering an exception -/

/-- An instruction whose meaning is to take an exception enters it where its handler can be found (R215). -/
theorem raises_of_takeException {i : Instr} {s : State} {number ret handler : Word}
    (hexec : exec i s = takeException number ret s) (hhandler : HandlerAt s number handler) :
    Raises i s number ret handler :=
  ⟨_, hexec.trans (takeException_next.2 ⟨handler, handlerAt_iff.1 hhandler, rfl⟩), entered_enter s number ret handler,
    ⟨rfl, rfl, rfl, rfl, rfl⟩⟩

/-- Settles O50: both traps take the exception of their number with the return address A + 2. -/
theorem trapsEnterTheirVector : Obligations.TrapsEnterTheirVector := by
  refine ⟨fun rD s handler hhandler => raises_of_takeException rfl hhandler, ?_⟩
  intro im s number handler him hnumber hhandler
  obtain rfl : immNat im = number := BitVec.eq_of_toNat_eq (by simp [immNat, hnumber]; omega)
  exact raises_of_takeException rfl hhandler

/-- An invalid word's meaning is the invalid instruction exception, whichever of the nine groups it is of (R162, R93). -/
theorem exec_of_isInvalid {i : Instr} (s : State) (h : isInvalid i = true) :
    exec i s = takeException s.cfg.vecInvalid s.invalidReturn s := by
  cases i with
  | invalidCc10 | invalidCc11 | invalidCc12 | invalidCc13 | invalidCc14 | invalidCc15 | invalidSub1D | invalidSub1E
  | invalidSub1F => rfl
  | _ => simp [isInvalid] at h

/-- Settles O51: each of the nine is an invalid word, and they share one meaning. -/
theorem invalidWordsEnterTheInvalidInstructionException :
    Obligations.InvalidWordsEnterTheInvalidInstructionException := by
  intro s handler off8 top i hhandler hi
  have hinvalid : isInvalid i = true := by
    simp only [List.mem_cons, List.not_mem_nil, or_false] at hi
    rcases hi with rfl | rfl | rfl | rfl | rfl | rfl | rfl | rfl | rfl <;> rfl
  exact raises_of_takeException (exec_of_isInvalid s hinvalid) hhandler

/-- Taking an exception faults exactly where its handler cannot be found (R226). -/
theorem takeException_faults_iff {s : State} {number ret : Word} :
    (∃ f, takeException number ret s = .fault f) ↔ ¬∃ handler, HandlerAt s number handler := by
  simp only [handlerAt_iff, takeException, orFault]
  cases vectorAddress s number <;> simp

/-- Settles O52: the three forms all take the exception of their number, and that faults where no handler is found. -/
theorem entryFaultsExactlyWhereNoHandlerIsFound : Obligations.EntryFaultsExactlyWhereNoHandlerIsFound := by
  rintro i s number (⟨rD, rfl, rfl⟩ | ⟨im, rfl, rfl⟩ | ⟨hinvalid, rfl⟩)
  · exact takeException_faults_iff
  · exact takeException_faults_iff
  · rw [exec_of_isInvalid s hinvalid]
    exact takeException_faults_iff

/-! ### Returning, and the exception registers -/

/-- Settles O49: the return writes rD, then SR, then pc. -/
theorem retiRestoresSrAndPcAndRd : Obligations.RetiRestoresSrAndPcAndRd := by
  intro rD s
  refine ⟨s.returnFromException rD, rfl, fun k => by simp, rfl, rfl, rfl, ?_, fun a => by simp, ?_⟩
  · simp [SameExceptionRegs]
  · simp [SameEnvironment]

/-- Settles O53: each get instruction ends by writing its register to rD. -/
theorem getInstructionsCopyTheirRegister : Obligations.GetInstructionsCopyTheirRegister :=
  fun _ _ => ⟨yields_of_finish rfl, yields_of_finish rfl, yields_of_finish rfl, yields_of_finish rfl,
    yields_of_finish rfl⟩

/-- Settles O54: each set instruction advances and replaces one register. -/
theorem setInstructionsWriteTheirRegisterAlone : Obligations.SetInstructionsWriteTheirRegisterAlone := by
  rintro rD s _ rfl
  refine ⟨⟨_, rfl, ?epc⟩, ⟨_, rfl, ?esr⟩, ⟨_, rfl, ?eur⟩, ⟨_, rfl, ?enum⟩, ⟨_, rfl, ?vbr⟩⟩
  all_goals
    exact ⟨⟨fun _ => rfl, rfl, rfl⟩, rfl, fun _ => rfl, ⟨rfl, rfl, rfl, rfl, rfl⟩, rfl, rfl, rfl, rfl, rfl⟩

/-- Settles O55: the trap parks SR in ESR and A + 2 in EPC, `seteur` the register in EUR, and `reti` puts all three back;
between them only the register itself is overwritten. -/
theorem handlerThatParksARegisterReturnsTransparently :
    Obligations.HandlerThatParksARegisterReturnsTransparently := by
  intro rD k im s t htrap
  obtain ⟨handler, -, rfl⟩ := takeException_next.1 htrap
  refine ⟨_, _, _, rfl, rfl, rfl, fun j => ?_, rfl, rfl, fun a => rfl⟩
  by_cases hj : k = j
  · simp [hj, State.read]
  · simp [hj]

end Sys2Proof.Proofs
end

section
/-! The statements about the register instructions (spec/40_load_immediate.md, 42_alu_register.md, 43_branch.md,
44_two_operand.md, 46_alu_immediate.md): how each instruction ends, with its result and carry as numbers. -/

namespace Sys2Proof.Proofs

open Sys2Proof.Machine Sys2Proof.Claims

/-! ### Load immediate -/

/-- The immediate above the low byte, as a number (R112). -/
theorem withHighByte_toNat {im : Nat} (him : im ≤ 255) (w : Word) :
    (withHighByte im w).toNat = im * 256 + w.toNat % 256 := by
  rw [withHighByte, toNat_append_bytes, lowByte_toNat, BitVec.toNat_ofNat, Nat.mod_eq_of_lt (by omega)]

/-- `ldimh` writes the immediate above the low byte of rD (R112). -/
theorem yields_ldimh (im : Nat) (rD : Reg) (s : State) :
    Yields (.ldimh im rD) s rD (withHighByte im (s.read rD)) := yields_of_finish rfl

/-- Settles O24: `ldimh` ends by writing that word. -/
theorem ldimhReplacesTheHighByte : Obligations.LdimhReplacesTheHighByte :=
  fun im rD s him => ⟨_, withHighByte_toNat him _, yields_ldimh im rD s⟩

/-- Sign-extending the low byte of a word leaves that byte (R111). -/
theorem immWord_lowByte_mod (w : Word) : (immWord (w.extractLsb' 0 8).toInt).toNat % 256 = w.toNat % 256 := by
  have hbyte : (w.extractLsb' 0 8).toNat = w.toNat % 256 := lowByte_toNat w
  rw [immWord, BitVec.toNat_ofInt, BitVec.toInt_eq_toNat_cond, hbyte]
  split <;> omega

/-- Above the low byte that `ldim` loaded, the high byte makes the word (R111, R112). -/
theorem withHighByte_immWord (w : Word) : withHighByte (w.toNat / 256) (immWord (w.extractLsb' 0 8).toInt) = w := by
  apply BitVec.eq_of_toNat_eq
  rw [withHighByte_toNat (by omega), immWord_lowByte_mod]
  omega

/-- Settles O25: `ldimh` keeps the low byte `ldim` loaded. -/
theorem ldimThenLdimhLoadsAnyConstant : Obligations.LdimThenLdimhLoadsAnyConstant := by
  intro w k s
  refine ⟨_, _, rfl, rfl, ?_, by simp, by simp [BitVec.add_assoc], fun j hj => by simp [hj.symm]⟩
  rw [State.gpr_finish, if_pos rfl, State.read, State.gpr_finish, if_pos rfl, withHighByte_immWord]

/-! ### Flags after a result -/

/-- C after a result and its flags, where the result does not go to r15 (R30, R130). -/
theorem flagC_finishWithFlags (s : State) {r : Reg} (res : Word) (c : Bool) (hr : r ≠ .sr) :
    flagC (s.finishWithFlags r res (some c)).sr = c := by
  obtain ⟨-, -, hcarry, -⟩ := flagsOn_update s.sr res (some c)
  rw [State.sr_finishWithFlags]
  cases s.cfg.srWriteOrder <;> simpa [hr] using hcarry

/-! ### Addition and negation -/

/-- `add` ends with the exact sum's low 16 bits and its carry (R131). -/
theorem exec_add (rA rB rD : Reg) (s : State) :
    exec (.add rA rB rD) s =
      .next (s.finishWithFlags rD (BitVec.ofNat 16 ((s.read rA).toNat + (s.read rB).toNat))
        (some (decide (65536 ≤ (s.read rA).toNat + (s.read rB).toNat)))) := by
  rw [exec, execAdd, addWithCarry_eq]
  rfl

/-- `adc` ends with the low 16 bits of the exact sum with C, and its carry (R132). -/
theorem exec_adc (rA rB rD : Reg) (s : State) :
    exec (.adc rA rB rD) s =
      .next (s.finishWithFlags rD (BitVec.ofNat 16 ((s.read rA).toNat + (s.read rB).toNat + (flagC s.sr).toNat))
        (some (decide (65536 ≤ (s.read rA).toNat + (s.read rB).toNat + (flagC s.sr).toNat)))) := by
  rw [exec, execAdc, addWithCarry_eq]
  rfl

/-- Settles O29: both end with the pair of sum and carry, which are those of the exact sum. -/
theorem addAndAdcWriteTheSumAndItsCarry : Obligations.AddAndAdcWriteTheSumAndItsCarry :=
  fun rA rB rD s =>
    ⟨yields_of_finishWithFlags (exec_add rA rB rD s), yields_of_finishWithFlags (exec_adc rA rB rD s)⟩

/-- Settles O34: the carry of the low halves, which no write between disturbs, is the high halves' carry in. -/
theorem addThenAdcAddsDoubleWords : Obligations.AddThenAdcAddsDoubleWords := by
  intro a0 a1 b0 b1 d0 d1 s ha hb hd
  refine ⟨_, _, exec_add _ _ _ s, exec_adc _ _ _ _, ?_⟩
  rw [flagC_finishWithFlags _ _ _ (by simp), flagC_finishWithFlags _ _ _ (by simp)]
  have ha0 := (s.gpr a0).isLt
  have ha1 := (s.gpr a1).isLt
  have hb0 := (s.gpr b0).isLt
  have hb1 := (s.gpr b1).isLt
  by_cases hcarry : 65536 ≤ (s.gpr a0).toNat + (s.gpr b0).toNat
  · simp [State.read, ha, hb, hd.symm, hcarry]
    omega
  · simp [State.read, ha, hb, hd.symm, hcarry]
    omega

/-- The two's complement as a number (R167). -/
theorem negated_eq (a : Word) : negated a = BitVec.ofNat 16 (65536 - a.toNat) := by
  apply BitVec.eq_of_toNat_eq
  simp [negated]

/-- C after `neg` as the carry of (~rA) + 1 (R167). -/
theorem carryOfNeg_adder (a : Word) : carryOfNeg .adder a = decide (a.toNat = 0) := by
  rw [carryOfNeg, beq_eq_decide, decide_eq_decide, BitVec.toNat_eq, BitVec.toNat_zero]

/-- C after `neg` as the borrow of 0 - rA: the other reading's complement (R167). -/
theorem carryOfNeg_borrow (a : Word) : carryOfNeg .borrow a = decide (a.toNat ≠ 0) := by
  rw [decide_not, ← carryOfNeg_adder]
  rfl

/-- Settles O38: `neg` ends with the two's complement and the carry of the reading in force. -/
theorem negWritesTheTwosComplement : Obligations.NegWritesTheTwosComplement := by
  intro rA rD s
  have hyields : YieldsWithFlags (.neg rA rD) s rD (negated (s.read rA))
      (some (carryOfNeg s.cfg.negCarry (s.read rA))) := yields_of_finishWithFlags rfl
  rw [negated_eq] at hyields
  cases hreading : s.cfg.negCarry with
  | borrow => rwa [hreading, carryOfNeg_borrow] at hyields
  | adder => rwa [hreading, carryOfNeg_adder] at hyields

/-- Settles O42: adding the two's complement carries exactly where the subtrahend is not 0 and does not exceed the
minuend. -/
theorem negThenAddSubtracts : Obligations.NegThenAddSubtracts := by
  intro a b x d s hx
  refine ⟨_, _, rfl, exec_add _ _ _ _, ?_, ?_⟩
  · apply BitVec.eq_of_toNat_eq
    simp [State.read, hx, negated, BitVec.toNat_sub, Nat.add_comm]
  · rw [flagC_finishWithFlags _ _ _ (by simp), decide_eq_decide]
    have ha := (s.gpr a).isLt
    have hb := (s.gpr b).isLt
    simp [State.read, hx, negated_eq]
    omega

/-- The operand word of an immediate of `addi`, as a number (R91). -/
theorem immWord_toNat (im : Int) : ((immWord im).toNat : Int) = im % 65536 := by
  rw [immWord, BitVec.toNat_ofInt]
  omega

/-- Settles O45: the exact sum is that with the operand word, which is the immediate, or 2^16 above it where that is
negative. -/
theorem addiAddsTheSignedImmediate : Obligations.AddiAddsTheSignedImmediate := by
  intro im rD s him
  have hrange : (-8 ≤ im ∧ im ≤ -1) ∨ (1 ≤ im ∧ im ≤ 8) := by simpa [signed4NoZero] using him
  have hoperand := immWord_toNat im
  refine ⟨BitVec.ofNat 16 ((s.read rD).toNat + (immWord im).toNat), by rw [BitVec.toNat_ofNat]; omega,
    yields_of_finishWithFlags ?_⟩
  have hcarry : decide (65536 ≤ (s.read rD).toNat + (immWord im).toNat) =
      if 0 < im then decide (65536 ≤ ((s.read rD).toNat : Int) + im) else decide (0 ≤ ((s.read rD).toNat : Int) + im) := by
    split <;> rw [decide_eq_decide] <;> omega
  rw [← hcarry, exec, execAddi, addWithCarry_eq]
  rfl

/-! ### Logic -/

/-- Settles O30: each ends with the bitwise result and leaves C. -/
theorem logicInstructionsLeaveCarry : Obligations.LogicInstructionsLeaveCarry := by
  refine fun rA rB rD s => ⟨⟨_, fun j => BitVec.getLsbD_and, yields_of_finishWithFlags rfl⟩,
    ⟨_, fun j => BitVec.getLsbD_or, yields_of_finishWithFlags rfl⟩,
    ⟨_, fun j => BitVec.getLsbD_xor, yields_of_finishWithFlags rfl⟩, ⟨_, ?_, yields_of_finishWithFlags rfl⟩⟩
  have := (s.read rA).isLt
  rw [BitVec.toNat_not]
  omega

/-- Settles O46: each ends with the bitwise result of rD and the sign-extended operand, and leaves C. -/
theorem andiAndOriUseTheSignExtendedImmediate : Obligations.AndiAndOriUseTheSignExtendedImmediate := by
  intro im rD s him
  have hrange : (-8 ≤ im ∧ im ≤ -1) ∨ (1 ≤ im ∧ im ≤ 8) := by simpa [signed4NoZero] using him
  exact ⟨immWord im, immWord_toInt (by omega) (by omega), ⟨_, fun j => BitVec.getLsbD_and, yields_of_finishWithFlags rfl⟩,
    ⟨_, fun j => BitVec.getLsbD_or, yields_of_finishWithFlags rfl⟩⟩

/-! ### Comparison, and the branches after it -/

/-- A difference modulo 2^16 as a number (R9). -/
theorem sub_eq_ofNat (a b : Word) : a - b = BitVec.ofNat 16 (a.toNat + 65536 - b.toNat) := by
  apply BitVec.eq_of_toNat_eq
  rw [BitVec.toNat_sub, BitVec.toNat_ofNat]
  omega

/-- `cmp` compares rD with rA (R169). -/
theorem compares_cmp (rA rD : Reg) (s : State) :
    Compares (.cmp rA rD) s (s.read rD - s.read rA) (decide ((s.read rD).toNat < (s.read rA).toNat)) :=
  compares_of_finishCompare rfl

/-- `cmpi` compares rD with the operand word of the immediate (R186). -/
theorem compares_cmpi (im : Int) (rD : Reg) (s : State) :
    Compares (.cmpi im rD) s (s.read rD - immWord im) (decide ((s.read rD).toNat < (immWord im).toNat)) :=
  compares_of_finishCompare rfl

/-- `SUB2` 0x3 is `cmp`, under any tables (R87). -/
theorem decodeWord_cmp (cfg : Config) (rA rD : Reg) : decodeWord cfg (packR2 rA rD 0x3#4) = .cmp rA rD := by
  rw [decodeWord_packR2]
  simp [decodeSub2]

/-- Settles O39: the low byte 0x3F is `SUB2` 0x3 with the primary opcode 0xF, and `cmp` ends as a comparison. -/
theorem cmpSetsFlagsFromTheDifference : Obligations.CmpSetsFlagsFromTheDifference := by
  intro rA rD s
  refine ⟨?decodes, sub_eq_ofNat (s.read rD) (s.read rA) ▸ compares_cmp rA rD s⟩
  case decodes =>
    calc decodeWord s.cfg (nibbleOfReg rD ++ nibbleOfReg rA ++ (0x3#4 ++ 0xF#4))
        = decodeWord s.cfg (packR2 rA rD 0x3#4) := congrArg _ (append_byte_eq_packNibbles _ _ _ _)
      _ = .cmp rA rD := decodeWord_cmp s.cfg rA rD

/-- Settles O48: `cmpi` ends as a comparison with the sign-extended operand. -/
theorem cmpiComparesWithTheSignExtendedImmediate : Obligations.CmpiComparesWithTheSignExtendedImmediate :=
  fun im rD s hlo hhi =>
    ⟨immWord im, immWord_toInt (by omega) (by omega), sub_eq_ofNat (s.read rD) (immWord im) ▸ compares_cmpi im rD s⟩

/-- After a comparison of `d` with `m`, C says whether `d` is below `m` and Z whether they are equal (R169, R186). -/
theorem carry_and_zero_of_compares {i : Instr} {s t : State} {d m : Word}
    (h : Compares i s (d - m) (decide (d.toNat < m.toNat))) (hexec : exec i s = .next t) :
    t.sr.getLsbD 3 = decide (d.toNat < m.toNat) ∧ t.sr.getLsbD 2 = decide (d.toNat = m.toNat) := by
  obtain ⟨u, hexec', -, ⟨-, hzero, hcarry, -⟩, -⟩ := h
  obtain rfl : u = t := by simpa [hexec] using hexec'.symm
  refine ⟨hcarry, hzero.trans ?_⟩
  rw [decide_eq_decide, sub_eq_ofNat, BitVec.toNat_ofNat]
  omega

/-- The four branches on C and Z test the bits of SR that hold them (R158 to R161). -/
theorem carryBranches_branchIf (off : Int) (s : State) :
    BranchesIf (.bcs off) s (s.sr.getLsbD 3) off ∧ BranchesIf (.bcc off) s (!s.sr.getLsbD 3) off ∧
      BranchesIf (.bgr off) s (!s.sr.getLsbD 3 && !s.sr.getLsbD 2) off ∧
      BranchesIf (.ble off) s (s.sr.getLsbD 3 || s.sr.getLsbD 2) off :=
  ⟨branches_of_branchIf rfl, branches_of_branchIf rfl, branches_of_branchIf rfl, branches_of_branchIf rfl⟩

/-- Settles O36: each branch is its row of R151, and after a comparison C and Z decide the unsigned order. -/
theorem carryBranchesDecideUnsignedComparisons : Obligations.CarryBranchesDecideUnsignedComparisons := by
  intro off s hlo hhi
  obtain ⟨hbcs, hbcc, hbgr, hble⟩ := carryBranches_branchIf off s
  refine ⟨⟨decodeWord_packBranch s.cfg (branch := .bcs) (fun _ => rfl) hlo hhi, hbcs⟩,
    ⟨decodeWord_packBranch s.cfg (branch := .bcc) (fun _ => rfl) hlo hhi, hbcc⟩,
    ⟨decodeWord_packBranch s.cfg (branch := .bgr) (fun _ => rfl) hlo hhi, hbgr⟩,
    ⟨decodeWord_packBranch s.cfg (branch := .ble) (fun _ => rfl) hlo hhi, hble⟩, fun i rD m t hi hexec => ?_⟩
  have hcompares : Compares i s (s.read rD - m) (decide ((s.read rD).toNat < m.toNat)) := by
    rcases hi with ⟨rA, rfl, rfl⟩ | ⟨im, rfl, rfl⟩
    · exact compares_cmp rA rD s
    · exact compares_cmpi im rD s
  obtain ⟨hcarry, hzero⟩ := carry_and_zero_of_compares hcompares hexec
  have hge : decide ((s.read rD).toNat ≥ m.toNat) = !t.sr.getLsbD 3 := by
    rw [hcarry, ← decide_not, decide_eq_decide]; omega
  have hle : decide ((s.read rD).toNat ≤ m.toNat) = (t.sr.getLsbD 3 || t.sr.getLsbD 2) := by
    rw [hcarry, hzero, ← Bool.decide_or, decide_eq_decide]; omega
  have hgt : decide ((s.read rD).toNat > m.toNat) = (!t.sr.getLsbD 3 && !t.sr.getLsbD 2) := by
    rw [← Bool.not_or, ← hle, ← decide_not, decide_eq_decide]; omega
  rw [hge, hle, hgt, ← hcarry]
  exact carryBranches_branchIf off t

/-! ### Calls and exchanges -/

/-- Settles O40: the link is written, then the jump made to the target read before. -/
theorem callLinksAndJumps : Obligations.CallLinksAndJumps := by
  intro rA rD s
  refine ⟨_, rfl, rfl, rfl, fun k => by simp, by simp [SrWritten], ?_, fun a => by simp, ?_⟩
  · simp [SameExceptionRegs]
  · simp [SameEnvironment]

/-- Settles O41: both registers are read before either is written, and rD is written last. -/
theorem swapExchangesTwoRegisters : Obligations.SwapExchangesTwoRegisters := by
  intro rA rD s
  refine ⟨_, rfl, fun k => by simp, by simp, by simp, ?_, ?_, fun a => by simp, ?_⟩
  · by_cases hD : rD = .pc <;> simp [hD]
  · simp [SameExceptionRegs]
  · simp [SameEnvironment]

end Sys2Proof.Proofs
end

section
/-! The statements about the shifts (spec/42_alu_register.md, 46_alu_immediate.md): every count is a product or a quotient
by a power of two, and C a bit of it. -/

namespace Sys2Proof.Proofs

open Sys2Proof.Machine Sys2Proof.Claims

/-- The count a register shift takes, in the terms of the statements (R136). -/
theorem registerCount_eq_countOf (s : State) (rB : Reg) : s.registerCount rB = countOf s (s.read rB) := by
  unfold State.registerCount shiftCount countOf
  cases s.cfg.shiftCountBits <;> rfl

/-- C after a shift by 0, in the terms of the statements (R136). -/
theorem shiftCarry_zero (s : State) (last : Bool) : shiftCarry s 0 last = carryOfShift0 s.cfg.shift0Carry := by
  unfold shiftCarry carryOfShift0
  cases s.cfg.shift0Carry <;> rfl

/-- C after a shift by a count other than 0 is the last bit shifted out (R136). -/
theorem shiftCarry_of_ne_zero (s : State) {n : Nat} (hn : n ≠ 0) (last : Bool) : shiftCarry s n last = some last :=
  if_neg hn

/-- A bit of a word as a digit of its number. -/
theorem getLsbD_eq_decide (a : Word) (k : Nat) : a.getLsbD k = decide (a.toNat / 2 ^ k % 2 = 1) := by
  rw [BitVec.getLsbD, Nat.testBit_eq_decide_div_mod_eq]

/-! ### Left -/

/-- A left shift by 1 to 16 places: the product modulo 2^16, and C the last bit shifted out (R137, R184). -/
theorem shiftLeft_of_le (z : Shift0Carry) (a : Word) {n : Nat} (hpos : n ≠ 0) (hn : n ≤ 16) :
    shiftLeft z a n = (BitVec.ofNat 16 (a.toNat * 2 ^ n), some (decide (a.toNat / 2 ^ (16 - n) % 2 = 1))) := by
  have hresult : a <<< n = BitVec.ofNat 16 (a.toNat * 2 ^ n) := by
    apply BitVec.eq_of_toNat_eq
    rw [BitVec.toNat_shiftLeft, Nat.shiftLeft_eq, BitVec.toNat_ofNat]
  rw [shiftLeft, if_neg hpos, if_pos hn, hresult, getLsbD_eq_decide]

/-- The bits of the product from 2^16 on are those shifted out. -/
theorem mul_two_pow_div (x : Nat) {n : Nat} (hn : n ≤ 16) : x * 2 ^ n / 65536 = x / 2 ^ (16 - n) := by
  have hsplit : 65536 = 2 ^ (16 - n) * 2 ^ n := by rw [← Nat.pow_add, Nat.sub_add_cancel hn]
  rw [hsplit, Nat.mul_div_mul_right _ _ (Nat.two_pow_pos n)]

/-- A left shift by any count (R137). -/
theorem shiftLeft_eq (s : State) (a : Word) (n : Nat) :
    shiftLeft s.cfg.shift0Carry a n =
      (BitVec.ofNat 16 (a.toNat * 2 ^ n), shiftCarry s n (decide (a.toNat * 2 ^ n / 65536 % 2 = 1))) := by
  by_cases hzero : n = 0
  · simp [hzero, shiftLeft, shiftCarry_zero]
  · rw [shiftCarry_of_ne_zero s hzero]
    by_cases hn : n ≤ 16
    · rw [shiftLeft_of_le _ a hzero hn, mul_two_pow_div _ hn]
    · have hproduct : a.toNat * 2 ^ n = 65536 * (2 * (a.toNat * 2 ^ (n - 17))) := by
        rw [show n = 17 + (n - 17) by omega, Nat.pow_add, Nat.add_sub_cancel_left]
        ring
      have hresult : BitVec.ofNat 16 (a.toNat * 2 ^ n) = 0#16 := by
        apply BitVec.eq_of_toNat_eq
        rw [hproduct, BitVec.toNat_ofNat, Nat.mul_mod_right, BitVec.toNat_zero]
      have hcarry : ¬a.toNat * 2 ^ n / 65536 % 2 = 1 := by rw [hproduct]; omega
      rw [shiftLeft, if_neg hzero, if_neg hn, hresult, decide_eq_false hcarry]

/-- Settles O31: `lsl` ends with the shifted pair. -/
theorem lslIsExact : Obligations.LslIsExact := by
  rintro rA rB rD s n rfl
  refine yields_of_finishWithFlags ?_
  rw [exec, execLsl, registerCount_eq_countOf, shiftLeft_eq]
  rfl

/-! ### Right, logical -/

/-- A logical right shift by 1 to 16 places: the quotient, and C the last bit shifted out (R138, R185). -/
theorem shiftRight_of_le (z : Shift0Carry) (a : Word) {n : Nat} (hpos : n ≠ 0) (hn : n ≤ 16) :
    shiftRight z a n = (BitVec.ofNat 16 (a.toNat / 2 ^ n), some (decide (a.toNat / 2 ^ (n - 1) % 2 = 1))) := by
  have hresult : a >>> n = BitVec.ofNat 16 (a.toNat / 2 ^ n) := by
    apply BitVec.eq_of_toNat_eq
    rw [BitVec.toNat_ushiftRight, Nat.shiftRight_eq_div_pow, BitVec.toNat_ofNat,
      Nat.mod_eq_of_lt (Nat.lt_of_le_of_lt (Nat.div_le_self _ _) a.isLt)]
  rw [shiftRight, if_neg hpos, if_pos hn, hresult, getLsbD_eq_decide]

/-- Dividing a word by 2^16 or more leaves nothing. -/
theorem toNat_div_two_pow (a : Word) {n : Nat} (hn : 16 ≤ n) : a.toNat / 2 ^ n = 0 :=
  Nat.div_eq_of_lt (Nat.lt_of_lt_of_le a.isLt (Nat.pow_le_pow_right (by decide) hn))

/-- A logical right shift by any count (R138). -/
theorem shiftRight_eq (s : State) (a : Word) (n : Nat) :
    shiftRight s.cfg.shift0Carry a n =
      (BitVec.ofNat 16 (a.toNat / 2 ^ n), shiftCarry s n (decide (a.toNat / 2 ^ (n - 1) % 2 = 1))) := by
  by_cases hzero : n = 0
  · simp [hzero, shiftRight, shiftCarry_zero]
  · rw [shiftCarry_of_ne_zero s hzero]
    by_cases hn : n ≤ 16
    · exact shiftRight_of_le _ a hzero hn
    · rw [shiftRight, if_neg hzero, if_neg hn, toNat_div_two_pow a (by omega), toNat_div_two_pow a (by omega)]
      rfl

/-- Settles O32: `lsr` ends with the shifted pair. -/
theorem lsrIsExact : Obligations.LsrIsExact := by
  rintro rA rB rD s n rfl
  refine yields_of_finishWithFlags ?_
  rw [exec, execLsr, registerCount_eq_countOf, shiftRight_eq]
  rfl

/-- Settles O47: the counts 1 to 8 are neither 0 nor above 16. -/
theorem immediateShiftsAreExact : Obligations.ImmediateShiftsAreExact := by
  refine fun im rD s hpos hle => ⟨yields_of_finishWithFlags ?lsli, yields_of_finishWithFlags ?lsri⟩
  case lsli =>
    rw [exec, execLsli, shiftLeft_of_le _ _ (by omega) (by omega)]
    rfl
  case lsri =>
    rw [exec, execLsri, shiftRight_of_le _ _ (by omega) (by omega)]
    rfl

/-! ### Right, arithmetic -/

/-- An arithmetic right shift divides the signed value, rounding down, by any power of two (R139). -/
theorem toInt_sshiftRight_eq_div (a : Word) (n : Nat) : (a.sshiftRight n).toInt = a.toInt / 2 ^ n := by
  rw [BitVec.toInt_sshiftRight, Int.shiftRight_eq_div_pow]
  norm_cast

/-- Bit 0 of a word is the parity of its signed value. -/
theorem getLsbD_zero_eq_decide_toInt (a : Word) : a.getLsbD 0 = decide (a.toInt % 2 = 1) := by
  rw [getLsbD_eq_decide, decide_eq_decide, BitVec.toInt_eq_toNat_cond]
  split <;> omega

/-- The bit an arithmetic right shift by `n + 1` shifts out last, as a digit of the signed value. -/
theorem getLsbD_sshiftRight_zero (a : Word) (n : Nat) :
    (a.sshiftRight n).getLsbD 0 = decide (a.toInt / 2 ^ n % 2 = 1) := by
  rw [getLsbD_zero_eq_decide_toInt, toInt_sshiftRight_eq_div]

/-- From 16 places on an arithmetic right shift leaves copies of the sign. -/
theorem sshiftRight_of_ge (a : Word) {n : Nat} (hn : 16 ≤ n) :
    a.sshiftRight n = if a.msb then 0xFFFF#16 else 0#16 := by
  have hones : 0xFFFF#16 = BitVec.allOnes 16 := rfl
  refine BitVec.eq_of_getLsbD_eq fun i hi => ?_
  rw [BitVec.getLsbD_sshiftRight, if_neg (by omega)]
  cases a.msb with
  | false => simp
  | true =>
    rw [if_pos rfl, hones, BitVec.getLsbD_allOnes]
    simp [hi]

/-- An arithmetic right shift by any count is that of the word, with C the last bit shifted out (R139). -/
theorem shiftRightArith_eq (s : State) (a : Word) (n : Nat) :
    shiftRightArith s.cfg.shift0Carry a n =
      (a.sshiftRight n, shiftCarry s n (decide (a.toInt / 2 ^ (n - 1) % 2 = 1))) := by
  by_cases hzero : n = 0
  · simp [hzero, shiftRightArith, shiftCarry_zero]
  · rw [shiftCarry_of_ne_zero s hzero, ← getLsbD_sshiftRight_zero, BitVec.getLsbD_sshiftRight, shiftRightArith,
      if_neg hzero]
    by_cases hn : n ≤ 15
    · simp [hn, show n - 1 < 16 by omega]
    · rw [if_neg hn, sshiftRight_of_ge a (by omega)]
      by_cases hlast : n = 16
      · simp [hlast, BitVec.msb_eq_getLsbD_last]
      · simp [show ¬n - 1 < 16 by omega]

/-- Settles O33: `asr` ends with the shifted pair, whose word is the signed quotient rounded down. -/
theorem asrIsFloorDivision : Obligations.AsrIsFloorDivision := by
  rintro rA rB rD s n rfl
  refine ⟨_, toInt_sshiftRight_eq_div (s.read rA) _, yields_of_finishWithFlags ?_⟩
  rw [exec, execAsr, registerCount_eq_countOf, shiftRightArith_eq]
  rfl

end Sys2Proof.Proofs
end

section
/-! The statements about IO (spec/45_io.md, spec/20_memory.md section 6). -/

namespace Sys2Proof.Proofs

open Sys2Proof.Machine Sys2Proof.Claims

/-- The port of an absent serial port, in the terms of the statements (R67, R240). -/
theorem absentPort_iff {s : State} {port : Word} :
    s.absentPort port = true ↔ s.cfg.serialPresent = false ∧ port = s.cfg.serialPort := by
  simp [State.absentPort]

/-- An immediate port is the number it names. -/
theorem immNat_eq_of_toNat {port : Word} {im : Nat} (h : port.toNat = im) : immNat im = port := by
  rw [immNat, ← h, BitVec.ofNat_toNat, BitVec.setWidth_eq]

/-- What reading a port does to r0 to r13, pc, SR, the exception registers, memory and the lines: the write of rD alone
(R176, R178). -/
theorem ioReadTo_writes (s : State) (port : Word) (rD : Reg) :
    Writes s (s.ioReadTo port rD) rD (s.ioValue port) ∧ SrWritten s (s.ioReadTo port rD) rD (s.ioValue port) ∧
      SameExceptionRegs s (s.ioReadTo port rD) ∧ SameMemory s (s.ioReadTo port rD) ∧
      (s.ioReadTo port rD).irqIn = s.irqIn ∧ (s.ioReadTo port rD).cfg = s.cfg := by
  simp [Writes, SrWritten, SameExceptionRegs, SameMemory, State.ioReadTo]

/-- Settles O43: `in` and `ini` are one read of their port; an absent port answers without the environment, any other from
the answers lined up or, where there is none, by a free draw. -/
theorem ioReadsTakeTheEnvironmentsAnswer : Obligations.IoReadsTakeTheEnvironmentsAnswer := by
  intro i port rD s hi
  have hexec : exec i s = .next (s.ioReadTo port rD) := by
    rcases hi with ⟨rA, rfl, rfl⟩ | ⟨im, -, rfl, hport⟩
    · rfl
    · rw [← immNat_eq_of_toNat hport]; rfl
  obtain ⟨hwrites, hsr, hexc, hmem, hirq, hcfg⟩ := ioReadTo_writes s port rD
  refine ⟨_, s.ioValue port, hexec, hwrites, hsr, hexc, hmem, hirq, hcfg, ?_⟩
  by_cases habsent : s.absentPort port = true
  · rw [if_pos (absentPort_iff.1 habsent)]
    simp [State.ioValue, State.ioReadTo, State.afterIoRead, habsent]
  · rw [if_neg (mt absentPort_iff.2 habsent)]
    refine ⟨by simp [State.ioValue, State.ioReadTo, State.events_afterIoRead, habsent], ?_⟩
    cases hin : s.ioIn <;>
      simp [State.ioValue, State.ioReadTo, State.afterIoRead, State.useAnswer, State.answer, habsent, hin]

/-- Settles O44: `out` and `outi` are one write to their port, recorded unless the port is absent. -/
theorem ioWritesAreRecordedAndChangeNoCpuState : Obligations.IoWritesAreRecordedAndChangeNoCpuState := by
  intro i port rD s hi
  have hexec : exec i s = .next (s.ioWrite port (s.read rD)).advance := by
    rcases hi with ⟨rA, rfl, rfl⟩ | ⟨im, -, rfl, hport⟩
    · rfl
    · rw [← immNat_eq_of_toNat hport]; rfl
  refine ⟨_, hexec, by simp [GoesOn], by simp, by simp [SameExceptionRegs], by simp [SameMemory], by simp, by simp,
    by simp, by simp, ?_⟩
  rw [State.events_advance, State.events_ioWrite]
  simp only [absentPort_iff]

end Sys2Proof.Proofs
end

section
/-! The other statements about the encoding (spec/30_encoding.md): encoding undoes decoding, decoded immediates are in
range, and which words are invalid; each one level of opcodes at a time. -/

namespace Sys2Proof.Proofs

open Sys2Proof.Machine Sys2Proof.Claims

/-! ### Encoding what was decoded, one level of opcodes at a time -/

/-- A nibble is one of sixteen literals. -/
theorem exists_nibble_eq (n : BitVec 4) : ∃ k, k < 16 ∧ n = BitVec.ofNat 4 k := ⟨n.toNat, n.isLt, by simp⟩

/-- A 4-bit field decoded as the operand of `addi`, `andi`, `ori` is encoded as it was. -/
theorem fieldOfImmA_immAOfField (n : BitVec 4) : fieldOfImmA (immAOfField n) = n := by
  revert n; decide

/-- A 3-bit field decoded as a shift count is encoded as it was. -/
theorem fieldOfCount_countOfField (n : BitVec 3) : fieldOfCount (countOfField n) = n := by
  revert n; decide

/-- Bit 11 and bits 10:8 are the field of an immediate shift. -/
theorem ofBool_msb_append (mid : BitVec 4) : BitVec.ofBool mid.msb ++ mid.extractLsb' 0 3 = mid := by
  revert mid; decide

/-- Two nibbles in the place of an 8-bit field. -/
theorem packI8_append (n3 n2 n1 n0 : BitVec 4) : packI8 n3 (n2 ++ n1) n0 = packNibbles n3 n2 n1 n0 := by
  rw [packI8_eq_packNibbles, BitVec.extractLsb'_append_eq_left, BitVec.extractLsb'_append_eq_right]

/-- What a condition and an offset decode to has them as its word's fields (R83, R93). -/
theorem encode_decodeBranch (cfg : Config) (cc : BitVec 4) (off8 : BitVec 8) :
    encode cfg (decodeBranch cc off8) = packI8 cc off8 0xE#4 := by
  obtain ⟨k, hk, rfl⟩ := exists_nibble_eq cc
  interval_cases k <;> simp [decodeBranch, encode, packBranch, BitVec.ofInt_toInt]

/-- What a third-level code decodes to has the code of its row (R86, R88). -/
theorem encode_decodeSub1 {cfg : Config} (h : cfg.encodingsAssigned = true) (sub1 top : BitVec 4) :
    encode cfg (decodeSub1 cfg sub1 top) = packNibbles top sub1 (cfg.code2 .escape) 0xF#4 := by
  have hcode := Config.code1_enc1At h sub1
  unfold decodeSub1
  cases hrow : cfg.enc1At sub1.toNat <;> rw [hrow] at hcode <;> simp [encode, packR1, hcode]

/-- What a row of `ENC2` decodes to has the code of the row (R85, R87, R91, R92). -/
theorem encode_decodeEnc2 {cfg : Config} (h : cfg.encodingsAssigned = true) (row : Enc2Row) (mid top : BitVec 4) :
    encode cfg (decodeEnc2 cfg row mid top) = packNibbles top mid (cfg.code2 row) 0xF#4 := by
  cases row with
  | inp | out => simp [decodeEnc2, encode, packR2]
  | ini | outi => simp [decodeEnc2, encode, packI4]
  | addi | andi | ori => simp [decodeEnc2, encode, packI4, fieldOfImmA_immAOfField]
  | shift =>
    have hmid := ofBool_msb_append mid
    unfold decodeEnc2
    by_cases hdir : mid.msb = cfg.lsriBit
    · rw [hdir] at hmid
      simp [hdir, encode, packShift, packI4, fieldOfCount_countOfField, hmid]
    · rw [Bool.eq_not_of_ne hdir] at hmid
      simp [hdir, encode, packShift, packI4, fieldOfCount_countOfField, hmid]
  | cmpi => simp [decodeEnc2, encode, packI4, BitVec.ofInt_toInt]
  | escape => exact encode_decodeSub1 h mid top

/-- What a second-level code decodes to has that code (R84, R87). -/
theorem encode_decodeSub2 {cfg : Config} (h : cfg.encodingsAssigned = true) (sub2 mid top : BitVec 4) :
    encode cfg (decodeSub2 cfg sub2 mid top) = packNibbles top mid sub2 0xF#4 := by
  obtain ⟨k, hk, rfl⟩ := exists_nibble_eq sub2
  by_cases hsource : k < 6
  · interval_cases k <;> simp [decodeSub2, encode, packR2]
  · obtain ⟨j, rfl⟩ := Nat.exists_eq_add_of_le' (Nat.le_of_not_lt hsource)
    have hcode : cfg.code2 (cfg.enc2At j) = BitVec.ofNat 4 (j + 6) := by
      rw [Config.code2_enc2At h (by omega), Nat.add_comm]
    rw [← hcode, decodeSub2_code2 h]
    exact encode_decodeEnc2 h _ mid top

/-- What a primary opcode decodes to has that opcode (R81 to R83, R89). -/
theorem encode_decodeNibbles {cfg : Config} (h : cfg.encodingsAssigned = true) (n3 n2 n1 n0 : BitVec 4) :
    encode cfg (decodeNibbles cfg n3 n2 n1 n0) = packNibbles n3 n2 n1 n0 := by
  obtain ⟨k, hk, rfl⟩ := exists_nibble_eq n0
  by_cases hescape : k < 14
  · interval_cases k <;> simp [decodeNibbles, encode, packR3, packI8_append, BitVec.ofInt_toInt]
  · obtain rfl | rfl : k = 14 ∨ k = 15 := by omega
    · exact (encode_decodeBranch cfg n3 (n2 ++ n1)).trans (packI8_append n3 n2 n1 0xE#4)
    · exact encode_decodeSub2 h n1 n2 n3

/-- Settles O2: a word is its four nibbles, and decoding loses none of them. -/
theorem encodeOfDecodeIsTheWord : Obligations.EncodeOfDecodeIsTheWord := by
  intro cfg w h
  rw [decodeWord, encode_decodeNibbles h, packNibbles_nibbleAt]

/-! ### The ranges of decoded immediates -/

/-- An 8-bit field holds a number in the signed range (R90). -/
theorem signed8_toInt (b : BitVec 8) : signed8 b.toInt = true := by
  have hlo := b.le_toInt
  have hhi := b.toInt_lt
  simp [signed8]; omega

/-- A nibble holds a number in the unsigned range (R92). -/
theorem unsigned4_toNat (n : BitVec 4) : unsigned4 n.toNat = true := by
  have := n.isLt
  simp [unsigned4]; omega

/-- A branch's offset is in range, whatever the condition (R83, R90). -/
theorem wf_decodeBranch (cc : BitVec 4) (off8 : BitVec 8) : (decodeBranch cc off8).wf = true := by
  unfold decodeBranch
  split <;> simp [Instr.wf, signed8_toInt]

/-- The instructions of the third level are well-formed (R88, R92). -/
theorem wf_decodeSub1 (cfg : Config) (sub1 top : BitVec 4) : (decodeSub1 cfg sub1 top).wf = true := by
  unfold decodeSub1
  cases cfg.enc1At sub1.toNat <;> simp [Instr.wf, unsigned4_toNat]

/-- The instructions of `ENC2` are well-formed: each field's number is in the range of its row (R91, R92). -/
theorem wf_decodeEnc2 (cfg : Config) (row : Enc2Row) (mid top : BitVec 4) : (decodeEnc2 cfg row mid top).wf = true := by
  have himmA : ∀ n : BitVec 4, signed4NoZero (immAOfField n) = true := by decide
  have hcount : ∀ n : BitVec 3, shiftImm (countOfField n) = true := by decide
  have himm : ∀ n : BitVec 4, signed4 n.toInt = true := by decide
  cases row with
  | inp | out => rfl
  | ini | outi => exact unsigned4_toNat mid
  | addi | andi | ori => exact himmA mid
  | shift =>
    unfold decodeEnc2
    by_cases hdir : mid.msb = cfg.lsriBit
    · simpa [hdir, Instr.wf] using hcount _
    · simpa [hdir, Instr.wf] using hcount _
  | cmpi => exact himm mid
  | escape => exact wf_decodeSub1 cfg mid top

/-- The instructions of the second level are well-formed (R84, R87). -/
theorem wf_decodeSub2 (cfg : Config) (sub2 mid top : BitVec 4) : (decodeSub2 cfg sub2 mid top).wf = true := by
  unfold decodeSub2
  split
  case h_7 k _ => exact wf_decodeEnc2 cfg (cfg.enc2At k) mid top
  all_goals rfl

/-- Settles O3: a field's number is in the range of the format's immediate, at every level of opcodes. -/
theorem decodedInstructionsAreWellFormed : Obligations.DecodedInstructionsAreWellFormed := by
  intro cfg w
  have hbyte (b : BitVec 8) : unsigned8 b.toNat = true := by
    have := b.isLt
    simp [unsigned8]; omega
  unfold decodeWord decodeNibbles
  split
  case h_1 => exact signed8_toInt _
  case h_2 => exact hbyte _
  case h_15 => exact wf_decodeBranch _ _
  case h_16 => exact wf_decodeSub2 _ _ _ _
  all_goals rfl

/-! ### The invalid words -/

/-- Format B is invalid for the conditions above 9 (R93). -/
theorem isInvalid_decodeBranch (cc : BitVec 4) (off8 : BitVec 8) :
    isInvalid (decodeBranch cc off8) = true ↔ 9 < cc.toNat := by
  obtain ⟨k, hk, rfl⟩ := exists_nibble_eq cc
  interval_cases k <;> simp [decodeBranch, isInvalid]

/-- The third level is invalid for the codes `ENC1` leaves unassigned (R93). -/
theorem isInvalid_decodeSub1 (cfg : Config) (sub1 top : BitVec 4) :
    isInvalid (decodeSub1 cfg sub1 top) = true ↔
      cfg.enc1At sub1.toNat ∈ [Enc1Row.unassignedD, .unassignedE, .unassignedF] := by
  unfold decodeSub1
  cases cfg.enc1At sub1.toNat <;> simp [isInvalid]

/-- Of the rows of `ENC2` the escape alone leads to invalid words (R87, R93). -/
theorem isInvalid_decodeEnc2 (cfg : Config) (row : Enc2Row) (mid top : BitVec 4) :
    isInvalid (decodeEnc2 cfg row mid top) = true ↔ row = .escape ∧
      cfg.enc1At mid.toNat ∈ [Enc1Row.unassignedD, .unassignedE, .unassignedF] := by
  cases row with
  | escape => simpa [decodeEnc2] using isInvalid_decodeSub1 cfg mid top
  | shift =>
    unfold decodeEnc2
    by_cases hdir : mid.msb = cfg.lsriBit <;> simp [hdir, isInvalid]
  | _ => simp [decodeEnc2, isInvalid]

/-- The second level is invalid where its code is the escape's and the third level's is unassigned (R84, R93). -/
theorem isInvalid_decodeSub2 (cfg : Config) (sub2 mid top : BitVec 4) :
    isInvalid (decodeSub2 cfg sub2 mid top) = true ↔
      6 ≤ sub2.toNat ∧ cfg.enc2At (sub2.toNat - 6) = .escape ∧
        cfg.enc1At mid.toNat ∈ [Enc1Row.unassignedD, .unassignedE, .unassignedF] := by
  unfold decodeSub2
  split
  case h_7 k hk =>
    replace hk : sub2.toNat = k + 6 := hk
    rw [isInvalid_decodeEnc2, hk, Nat.add_sub_cancel]
    simp
  all_goals
    rename_i hk
    simp [hk, isInvalid]

/-- The first level is invalid through format B or through the second level (R89, R93). -/
theorem isInvalid_decodeNibbles (cfg : Config) (n3 n2 n1 n0 : BitVec 4) :
    isInvalid (decodeNibbles cfg n3 n2 n1 n0) = true ↔
      (n0.toNat = 14 ∧ 9 < n3.toNat) ∨
        (n0.toNat = 15 ∧ 6 ≤ n1.toNat ∧ cfg.enc2At (n1.toNat - 6) = .escape ∧
          cfg.enc1At n2.toNat ∈ [Enc1Row.unassignedD, .unassignedE, .unassignedF]) := by
  obtain ⟨k, hk, rfl⟩ := exists_nibble_eq n0
  by_cases hescape : k < 14
  · have hk' : (BitVec.ofNat 4 k).toNat = k := by simp; omega
    rw [hk']
    interval_cases k <;> simp [decodeNibbles, isInvalid]
  · obtain rfl | rfl : k = 14 ∨ k = 15 := by omega
    · simpa [decodeNibbles] using isInvalid_decodeBranch n3 (n2 ++ n1)
    · simpa [decodeNibbles] using isInvalid_decodeSub2 cfg n1 n2 n3

/-- A word is invalid by its four nibbles, under any tables (R93). -/
theorem isInvalid_decodeWord (cfg : Config) (w : Word) :
    isInvalid (decodeWord cfg w) = true ↔
      (w.toNat % 16 = 14 ∧ 9 < w.toNat / 4096) ∨
        (w.toNat % 16 = 15 ∧ 6 ≤ w.toNat / 16 % 16 ∧ cfg.enc2At (w.toNat / 16 % 16 - 6) = .escape ∧
          cfg.enc1At (w.toNat / 256 % 16) ∈ [Enc1Row.unassignedD, .unassignedE, .unassignedF]) := by
  have htop : w.toNat / 4096 % 16 = w.toNat / 4096 := Nat.mod_eq_of_lt (by omega)
  rw [decodeWord, isInvalid_decodeNibbles]
  simp only [nibbleAt_toNat, Nat.reducePow, Nat.div_one, htop]

/-- In the spec's own `ENC2` the escape is the last row, code 0xF (R87). -/
theorem enc2At_defaultConfig_eq_escape {k : Nat} (hk : k < 10) : defaultConfig.enc2At k = .escape ↔ k = 9 := by
  interval_cases k <;> decide

/-- In the spec's own `ENC1` the last three codes are unassigned (R88, R93). -/
theorem enc1At_defaultConfig_unassigned {k : Nat} (hk : k < 16) :
    defaultConfig.enc1At k ∈ [Enc1Row.unassignedD, .unassignedE, .unassignedF] ↔ 13 ≤ k := by
  interval_cases k <;> decide

/-- Settles O4: level by level for any tables, and with the two tables looked up for the spec's own. -/
theorem invalidWordsAreTheTwoGroups : Obligations.InvalidWordsAreTheTwoGroups := by
  refine ⟨isInvalid_decodeWord, fun w => ?_⟩
  rw [isInvalid_decodeWord, enc2At_defaultConfig_eq_escape (by omega), enc1At_defaultConfig_unassigned (by omega)]
  omega

/-- Settles O5: ten words decoded, and the spec's own tables checked. -/
theorem wordsOfTheSpecDecode : Obligations.WordsOfTheSpecDecode := by
  unfold Obligations.WordsOfTheSpecDecode
  decide

end Sys2Proof.Proofs
end
